-- ==== Sys2Proof/Word.lean ====
section
/-! DEFINITION. The word types of PCMC (00_scope.md rules R8 and R9) and their plainest arithmetic. -/

namespace Sys2Proof

/-- A byte, u8 (00_scope.md rule R9). -/
abbrev Byte := BitVec 8

/-- A native sample as its 16-bit pattern (00_scope.md rule R8, NATIVE_WIDTH). -/
abbrev Half := BitVec 16

/-- A register, a command word or a float pattern: 32 bits (00_scope.md rule R8, REG_WIDTH). -/
abbrev Word := BitVec 32

/-- A byte address of system memory: 32 bits, arithmetic modulo 2^32 (20_memory.md rule R60). -/
abbrev Addr := BitVec 32

end Sys2Proof
end

