-- ==== Sys2Proof/Syntax.lean ====
section
/-! DEFINITION. The commands of PCMC: one constructor per row of the opcode table. -/

namespace Sys2Proof

/-- A decoded command, with the operands that 30_encoding.md rule R79 gives it. -/
inductive Instr where
  /-- CONV, the bit-depth normalizer (40_conv.md rule R101): BPS and BE. -/
  | conv (bps : BitVec 8) (be : Bool)
  /-- SPLIT8, the 8-bit channel splitter (41_split.md rule R121): CH. -/
  | split8 (ch : BitVec 16)
  /-- SPLIT16, the 16-bit channel splitter (41_split.md rule R125): CH and BE. -/
  | split16 (ch : BitVec 16) (be : Bool)
  /-- FNORM, the float normalizer (42_fnorm.md rule R141): CH. -/
  | fnorm (ch : BitVec 16)
deriving DecidableEq, Repr

end Sys2Proof
end

