-- ==== Sys2Proof/WellFormed.lean ====
section
/-! DEFINITION. Which commands have legal operands (30_encoding.md rules R75 to R77). -/

namespace Sys2Proof

/-- BPS is legal for CONV (30_encoding.md rule R75). -/
def bpsLegal (bps : BitVec 8) : Bool := bps == 8#8 || bps == 16#8

/-- CH is legal for SPLIT8 and SPLIT16 (30_encoding.md rule R76). -/
def splitChLegal (ch : BitVec 16) : Bool := ch == 1#16 || ch == 2#16

/-- CH is legal for FNORM (30_encoding.md rule R76). -/
def fnormChLegal (ch : BitVec 16) : Bool := ch != 0#16

/-- The operands pass the validation that 30_encoding.md rule R77 marks. The decoder accepts the other commands too
(rule R79): running one is an error completion (60_exceptions.md rule R161). -/
def Instr.wellFormed : Instr → Bool
  | .conv bps _ => bpsLegal bps
  | .split8 ch => splitChLegal ch
  | .split16 ch _ => splitChLegal ch
  | .fnorm ch => fnormChLegal ch

end Sys2Proof
end

