-- ==== Sys2Proof/Decode.lean ====
section
/-! DEFINITION. The command word: its fields, the decoder, the encoder, the eleven second names and the assembler
(30_encoding.md). -/

namespace Sys2Proof

/-- OP, bits [3:0] (30_encoding.md rule R71). -/
def opField (v : Word) : BitVec 4 := v.extractLsb' 0 4

/-- BE, bit 4. -/
def beField (v : Word) : Bool := v.getLsbD 4

/-- RSV, bits [7:5], which no decoding reads (30_encoding.md rule R74). -/
def rsvField (v : Word) : BitVec 3 := v.extractLsb' 5 3

/-- BPS, bits [15:8]. -/
def bpsField (v : Word) : BitVec 8 := v.extractLsb' 8 8

/-- CH, bits [31:16]. -/
def chField (v : Word) : BitVec 16 := v.extractLsb' 16 16

/-- Why a word is no command. -/
inductive DecodeRefusal where
  /-- OP is 0x0 or 0x5 to 0xF (30_encoding.md rule R80). -/
  | illegalOp (op : BitVec 4)
deriving DecidableEq, Repr

/-- The decoder of 30_encoding.md rule R79: total on every word; v[7:5] is not read. -/
def decode (v : Word) : Except DecodeRefusal Instr :=
  let op := opField v
  if op = 1#4 then .ok (.conv (bpsField v) (beField v))
  else if op = 2#4 then .ok (.split8 (chField v))
  else if op = 3#4 then .ok (.split16 (chField v) (beField v))
  else if op = 4#4 then .ok (.fnorm (chField v))
  else .error (.illegalOp op)

/-- `(ch << 16) | (bps << 8) | (be << 4) | op`, with RSV zero (30_encoding.md rule R82). -/
def packWord (op : BitVec 4) (be : Bool) (bps : BitVec 8) (ch : BitVec 16) : Word :=
  (ch.setWidth 32 <<< 16) ||| (bps.setWidth 32 <<< 8) ||| ((BitVec.ofBool be).setWidth 32 <<< 4) ||| op.setWidth 32

/-- The opcode of each command (30_encoding.md rule R72). -/
def Instr.opcode : Instr → BitVec 4
  | .conv _ _ => 1#4
  | .split8 _ => 2#4
  | .split16 _ _ => 3#4
  | .fnorm _ => 4#4

/-- The word of a command: each operand in its field, 0 in RSV and in the fields that are no operand of it
(30_encoding.md rule R82). -/
def encode : Instr → Word
  | .conv bps be => packWord 1#4 be bps 0#16
  | .split8 ch => packWord 2#4 false 0#8 ch
  | .split16 ch be => packWord 3#4 be 0#8 ch
  | .fnorm ch => packWord 4#4 false 0#8 ch

/-- The same command with 0 in every operand that it ignores: CONV reads BE only if BPS = 16
(30_encoding.md rules R73, R77). -/
def Instr.canonical : Instr → Instr
  | .conv bps be => .conv bps (be && decide (bps = 16#8))
  | .split8 ch => .split8 ch
  | .split16 ch be => .split16 ch be
  | .fnorm ch => .fnorm ch

/-- The canonical word of a command: 0 in RSV and in every field the command ignores (30_encoding.md rules R82, R84). -/
def Instr.canonicalWord (i : Instr) : Word := encode i.canonical

/-- The bits of a word that its command reads, as a mask (30_encoding.md rule R77): the rest are spellings. -/
def readMask : Instr → Word
  | .conv bps _ => if bps = 16#8 then 0x0000FF1F#32 else 0x0000FF0F#32
  | .split8 _ => 0xFFFF000F#32
  | .split16 _ _ => 0xFFFF001F#32
  | .fnorm _ => 0xFFFF000F#32

/-- The second names of 30_encoding.md rule R83. -/
inductive ShortName where
  | conv8 | conv16le | conv16be | split8m | split8s | split16lem | split16bem | split16les | split16bes | fnormm | fnorms
deriving DecidableEq, Repr

/-- The command each second name expands to (30_encoding.md rule R83). -/
def ShortName.expand : ShortName → Instr
  | .conv8 => .conv 8#8 false
  | .conv16le => .conv 16#8 false
  | .conv16be => .conv 16#8 true
  | .split8m => .split8 1#16
  | .split8s => .split8 2#16
  | .split16lem => .split16 1#16 false
  | .split16bem => .split16 1#16 true
  | .split16les => .split16 2#16 false
  | .split16bes => .split16 2#16 true
  | .fnormm => .fnorm 1#16
  | .fnorms => .fnorm 2#16

/-- An assembler line of 30_encoding.md rule R82 after its mnemonic and keywords are read: `be=` may be left out. -/
inductive AsmLine where
  | conv (bps : Nat) (be : Option Nat)
  | split8 (ch : Nat)
  | split16 (ch : Nat) (be : Option Nat)
  | fnorm (ch : Nat)
deriving DecidableEq, Repr

/-- The value of a `be=` operand: 0 where it is left out; only 0 and 1 are written (30_encoding.md rule R82). -/
def asmBe : Option Nat → Option Bool
  | none => some false
  | some n => if n = 0 then some false else if n = 1 then some true else none

/-- The assembler of 30_encoding.md rule R82: a number must fit its field; values the hardware rejects are accepted;
the word is canonical. Log entry 23. -/
def assemble : AsmLine → Option Word
  | .conv bps be =>
    (asmBe be).bind fun b =>
      if bps < 256 then some (Instr.conv (BitVec.ofNat 8 bps) b).canonicalWord else none
  | .split8 ch => if ch < 65536 then some (Instr.split8 (BitVec.ofNat 16 ch)).canonicalWord else none
  | .split16 ch be =>
    (asmBe be).bind fun b =>
      if ch < 65536 then some (Instr.split16 (BitVec.ofNat 16 ch) b).canonicalWord else none
  | .fnorm ch => if ch < 65536 then some (Instr.fnorm (BitVec.ofNat 16 ch)).canonicalWord else none

/-- The disassembler of 30_encoding.md rule R84: the canonical word of the command a word decodes to. -/
def canonical (v : Word) : Option Word :=
  match decode v with
  | .ok i => some i.canonicalWord
  | .error _ => none

/-- The command word whose low `nbits` bits are those of `w`, every bit above them 0. A command is one 32-bit word
(30_encoding.md rule R70), so there is no second word to lay out. -/
def tableWord (nbits w : Nat) : Word := BitVec.ofNat 32 (w % 2 ^ nbits)

/-- The command the decoder reads from an opcode-table row's bits. -/
def decodeTableWord (nbits w : Nat) : Option Instr :=
  match decode (tableWord nbits w) with
  | .ok i => some i
  | .error _ => none

end Sys2Proof
end

