-- ==== Sys2Proof/Config.lean ====
section
/-! DEFINITION. What the platform fixes, the constants of the register window, and the free values. -/

namespace Sys2Proof

/-- A range of bytes `[base, base + len)`, taken modulo 2^32 (20_memory.md rule R52). -/
structure Range where
  base : Addr
  len  : Nat
deriving DecidableEq, Repr

/-- The OPEN parameters of 00_scope.md rule R8, as plain data (log entry 4). -/
structure Platform where
  /-- P_BASE, the bus address of the register window (rule R22). -/
  base : Addr
  /-- The bytes for which P_MEM_RESPONDS is false (rule R11). -/
  silent : List Range
  /-- P_DMA_COHERENT (20_memory.md rule R67). -/
  coherent : Bool
  /-- Memory that maps a device with read or write side effects (20_memory.md rule R59). -/
  devices : List Range
deriving DecidableEq, Repr

/-- The read-only register ID (10_state.md rule R23). -/
def Config.idValue : Word := 0x50434D07#32

/-- What a byte of system memory that nothing has written reads as.
DESIGN CHOICE (unsafe), log entry 3: the spec gives no power-on contents. -/
def Config.blankByte : Byte := 0#8

/-- The platform of the reset state. DESIGN CHOICE (unsafe), log entry 4: the spec leaves every field open. -/
def Config.platform : Platform :=
  { base := 0x40000000#32, silent := [], coherent := true, devices := [] }

/-- Free value: which of several candidates a draw takes, as a number reduced modulo how many there are
(60_exceptions.md rule R167; 93_implementation_defined.md U5 and U6). Log entry 6. -/
opaque Config.drawIndex : Nat → Nat

/-- Free value: whether a destination byte holds its final value (true) or its old one (false)
(60_exceptions.md rule R167, 70_reset_and_hazards.md rule R192). Log entry 6. -/
opaque Config.drawFinal : Nat → Bool

/-- Free value: the byte where the spec allows any (60_exceptions.md rule R167). Log entry 6. -/
opaque Config.drawByte : Nat → Byte

end Sys2Proof
end

