-- ==== Sys2Proof/Machine/State.lean ====
section
/-! DEFINITION. The state of PCMC and its surroundings, the inputs, the reasons a step can stop, and the reset state. -/

namespace Sys2Proof.Machine

open Sys2Proof

/-- System memory (20_memory.md rule R50): the bytes that differ from `Config.blankByte`, by rising address. -/
abbrev Memory := List Host.Cell

/-- The canonical form of a memory: addresses strictly rising and inside the 2^32 bytes of rule R50, and no entry
equal to what an unlisted address reads as. -/
abbrev Memory.wf (m : Memory) : Prop :=
  m.Pairwise (fun a b => a.1 < b.1) ∧ ∀ c ∈ m, c.1 < 2 ^ 32 ∧ c.2 ≠ Config.blankByte

/-- The engine phase (10_state.md rule R43). -/
inductive Phase where
  | idle
  | running
deriving DecidableEq, Repr

/-- STATUS.ERRCODE by name (60_exceptions.md rule R160); the reserved codes 5 to 15 are never produced. -/
inductive ErrCode where
  | noError | unsupportedFormat | zeroChannels | illegalOp | busError
deriving DecidableEq, Repr

/-- L.op: the opcodes that can be latched (60_exceptions.md rule R161). -/
inductive Op where
  | conv | split8 | split16 | fnorm
deriving DecidableEq, Repr

/-- L, the latched command (10_state.md rule R42). -/
structure Latched where
  op : Op
  be : Bool
  bps : BitVec 8
  ch : BitVec 16
  src : Word
  len : Word
  dst0 : Word
  dst1 : Word
deriving DecidableEq, Repr

/-- A command that has completed but whose DONE = 1 the host has not observed (70_reset_and_hazards.md rule R199):
the ranges it touched, and what its destination bytes held before (20_memory.md rule R63). Log entry 13. -/
structure Flight where
  touched : List Range
  old : List Host.Cell
deriving DecidableEq, Repr

/-- What another agent does in one step (00_scope.md rule R15, 30_encoding.md rule R85). Log entry 1. -/
inductive Input where
  /-- A register write of `bytes` bytes at offset `off` of the window (10_state.md rule R39). -/
  | regWrite (off : BitVec 6) (bytes : Nat) (v : Word)
  /-- A register read of `bytes` bytes at offset `off` of the window. -/
  | regRead (off : BitVec 6) (bytes : Nat)
  /-- WAIT: STATUS is read until DONE = 1 (30_encoding.md rule R85). -/
  | waitDone
  /-- The `irq` line is sampled (10_state.md rule R41). -/
  | sampleIrq
  /-- Any agent writes one byte of system memory (20_memory.md rule R51). -/
  | memWrite (a : Addr) (b : Byte)
  /-- The host reads one byte of system memory. -/
  | memRead (a : Addr)
  /-- The engine takes its step, if it has one (60_exceptions.md rule R165). -/
  | engine
  /-- The reset input is asserted (70_reset_and_hazards.md rule R190). -/
  | assertReset
  /-- The reset input is released. -/
  | releaseReset
  /-- The host writes back the cached lines of a range (20_memory.md rule R67). -/
  | cacheClean (r : Range)
  /-- The host invalidates the cached lines of a range (20_memory.md rule R67). -/
  | cacheInvalidate (r : Range)
  /-- P_MEM_RESPONDS changes: it "may vary" (60_exceptions.md rule R170). -/
  | setSilent (rs : List Range)
deriving DecidableEq, Repr

/-- The machine. The register names are those of 10_state.md rule R22; the fields after `resetLine` are the
surroundings and the model's own, as INVENTORY.md lists them. -/
structure State where
  /-- CMD (rule R24). -/
  cmd : Word
  /-- The engine phase, which STATUS.BUSY reads (rules R26, R43). -/
  phase : Phase
  /-- STATUS.DONE (rule R27). -/
  done : Bool
  /-- STATUS.ERR (rule R28). -/
  err : Bool
  /-- STATUS.OVR (rule R29). -/
  ovr : Bool
  /-- STATUS.ERRCODE (rule R30). -/
  errcode : ErrCode
  /-- ERRVAL (rule R31). -/
  errval : Word
  /-- SRC_ADDR (rule R32). -/
  srcAddr : Word
  /-- SRC_LEN (rule R33). -/
  srcLen : Word
  /-- DST0_ADDR (rule R34). -/
  dst0Addr : Word
  /-- DST1_ADDR (rule R35). -/
  dst1Addr : Word
  /-- OUT_COUNT (rule R36). -/
  outCount : Word
  /-- IRQ_EN.DONE_IE (rule R37). -/
  doneIe : Bool
  /-- L (rule R42). -/
  latched : Latched
  /-- System memory (20_memory.md rule R50). -/
  mem : Memory
  /-- The level of the reset input (70_reset_and_hazards.md rule R190). -/
  resetLine : Bool
  /-- The OPEN parameters (00_scope.md rule R8). -/
  platform : Platform
  /-- Commands completed whose DONE the host has not observed (70_reset_and_hazards.md rule R199). -/
  unobserved : List Flight
  /-- Bytes the host wrote through its cache and has not written back (20_memory.md rule R67). -/
  hostDirty : List Addr
  /-- Bytes of which the host may hold an old cached copy (20_memory.md rule R67). -/
  hostStale : List Addr
  /-- The pending inputs, oldest first (the model's own; log entry 1). -/
  inputs : List Input
  /-- What the last host access returned; none where it was not answered (the model's own; log entry 12). -/
  readData : Option Word
  /-- The index of the next free value (the model's own; log entry 6). -/
  draws : Nat
deriving DecidableEq, Repr

/-- Why the machine stops with a fault: never. PCMC has no traps (60_exceptions.md rule R173) and every error is a
completion (rules R163, R167). -/
inductive Fault where
deriving DecidableEq, Repr

/-- Why a step has no meaning. Each but `notModelled` stands where a numbered rule says that a model refuses;
a refusal proves nothing about the hardware, so each is safe. -/
inductive Refusal where
  /-- An arm of exec that has no meaning yet. Raised by no arm. Safe. -/
  | notModelled (mnemonic : String)
  /-- A register access that is not an aligned 32-bit one (10_state.md rule R39, U1). Raised by the register
  accesses and by a byte access to the window. Safe. -/
  | registerAccess
  /-- The register window lies in a command's footprint (20_memory.md rules R50, R68). Raised by the engine's step,
  by reset during BUSY and by a host read of the footprint. Safe. -/
  | windowInFootprint
  /-- A write range overlaps another range of the command or itself (20_memory.md rule R68, U2). Raised as
  `windowInFootprint` is. Safe. -/
  | illFormedFootprint
  /-- The footprint maps a device with side effects (20_memory.md rule R59, U3). Raised as `windowInFootprint` is.
  Safe. -/
  | deviceInFootprint
  /-- Another agent writes a byte of a command's footprint before its DONE is observed (20_memory.md rule R63,
  70_reset_and_hazards.md rule R199, U4). Raised by `memWrite` and by a write-back. Safe. -/
  | footprintTouched
  /-- The cache maintenance of 20_memory.md rule R67 is missing (U11). Raised by the engine's step, by a host read
  and by an invalidation that drops a write. Safe. -/
  | cacheNotMaintained
deriving DecidableEq, Repr

/-- What one step can answer. -/
abbrev Outcome := Host.Outcome State Fault Refusal

/-- L after reset: the spec says undefined and that nothing reads it (10_state.md rule R42).
DESIGN CHOICE (unsafe), log entry 5. -/
def Latched.blank : Latched :=
  { op := .conv, be := false, bps := 0#8, ch := 0#16, src := 0#32, len := 0#32, dst0 := 0#32, dst1 := 0#32 }

/-- The machine right after reset (70_reset_and_hazards.md rule R191), with the choices of log entries 1, 3, 4, 5, 6
and 12 for what no rule gives. -/
def State.reset : State :=
  { cmd := 0#32, phase := .idle, done := false, err := false, ovr := false, errcode := .noError, errval := 0#32
    srcAddr := 0#32, srcLen := 0#32, dst0Addr := 0#32, dst1Addr := 0#32, outCount := 0#32, doneIe := false
    latched := Latched.blank, mem := [], resetLine := false, platform := Config.platform
    unobserved := [], hostDirty := [], hostStale := [], inputs := [], readData := none, draws := 0 }

end Sys2Proof.Machine
end

