-- ==== Sys2Proof/Machine/Ops.lean ====
section
/-! DEFINITION. The named operations: address ranges, memory, the free values, acceptance, and the completion of a
command (with and without an error, which is what taking an exception is on this hardware; 60_exceptions.md
rule R173) and its acknowledgement. -/

namespace Sys2Proof.Machine

open Sys2Proof

/-! Addresses and ranges -/

/-- `a +_32 k` (00_scope.md rule R9). -/
def addrPlus (a : Addr) (k : Nat) : Addr := a + BitVec.ofNat 32 k

/-- The range covers the address, modulo 2^32 (20_memory.md rules R52, R60). -/
def rangeHas (r : Range) (a : Addr) : Bool := decide ((a - r.base).toNat < r.len)

/-- The addresses of a range, in order. -/
def rangeAddrs (r : Range) : List Addr := (List.range r.len).map (addrPlus r.base)

/-- No address is in both ranges; an empty range meets none. -/
def rangeApart (r q : Range) : Bool :=
  decide (r.len = 0) || decide (q.len = 0) ||
    (decide (r.len ≤ (q.base - r.base).toNat) && decide (q.len ≤ (r.base - q.base).toNat))

/-- The register window: 64 bytes at P_BASE (10_state.md rule R22). -/
def windowRange (p : Platform) : Range := { base := p.base, len := 64 }

/-- P_MEM_RESPONDS (00_scope.md rule R11). -/
def responds (p : Platform) (a : Addr) : Bool := !(p.silent.any fun r => rangeHas r a)

/-! Memory -/

/-- The entry of one address is taken out. -/
def memErase (m : Memory) (k : Nat) : Memory := m.filter fun c => c.1 != k

/-- An entry is put at its place in the rising order. -/
def memInsert : Memory → Nat → Byte → Memory
  | [], k, v => [(k, v)]
  | c :: m, k, v => if k < c.1 then (k, v) :: c :: m else c :: memInsert m k v

/-- The entry of an address, or `Config.blankByte`. -/
def memLookup : Memory → Nat → Byte
  | [], _ => Config.blankByte
  | c :: m, k => if c.1 = k then c.2 else memLookup m k

/-- `MemRead(a, 1)` (00_scope.md rule R11). -/
def readByte (m : Memory) (a : Addr) : Byte := memLookup m a.toNat

/-- `MemWrite(a, 1, v)` (00_scope.md rule R11); the canonical form is kept. -/
def writeByte (m : Memory) (a : Addr) (v : Byte) : Memory :=
  if v = Config.blankByte then memErase m a.toNat else memInsert (memErase m a.toNat) a.toNat v

/-- `MemRead(a, 2)`: the lower address is less significant (00_scope.md rule R11, 20_memory.md rule R55). -/
def readHalf (m : Memory) (a : Addr) : Half := readByte m (addrPlus a 1) ++ readByte m a

/-- `MemRead(a, 4)`: the lower address is less significant (00_scope.md rule R11, 20_memory.md rule R56). -/
def readWord (m : Memory) (a : Addr) : Word := readHalf m (addrPlus a 2) ++ readHalf m a

/-! Plans: what a command does to memory -/

/-- One destination byte of a command: its address, the final value the pseudocode gives it, and the source bytes
that value is taken from (60_exceptions.md rule R167; log entry 7). -/
structure Store where
  addr : Addr
  val : Byte
  takenFrom : List Addr
deriving DecidableEq, Repr

/-- What the engine reads and writes for a command (20_memory.md rule R52), its destination bytes, and count(L)
(60_exceptions.md rule R166). -/
structure Plan where
  reads : List Range
  writes : List Range
  /-- The ranges of rule R52 that the engine does not come to write: the buffers of FNORM's pointer-table entries that
  do not respond (60_exceptions.md rule R167; log entry 8). -/
  unread : List Range
  stores : List Store
  count : Nat
deriving DecidableEq, Repr

/-- All ranges the engine reads and writes. -/
def planRanges (p : Plan) : List Range := p.reads ++ p.writes

/-- The engine's reads and writes cover the address. -/
def planHas (p : Plan) (a : Addr) : Bool := (planRanges p).any fun r => rangeHas r a

/-- The footprint of 20_memory.md rule R52, whichever of its bytes respond. -/
def planFootprint (p : Plan) : List Range := planRanges p ++ p.unread

/-- The ranges of a footprint that 20_memory.md rule R68 wants apart are apart (the register window is asked
separately), and no write range has 2^32 bytes or more (rule R60). -/
def planApart (p : Plan) : Bool :=
  (p.writes.all fun w => decide (w.len < 2 ^ 32)) &&
    decide (p.writes.Pairwise fun w v => rangeApart w v = true) &&
    (p.writes.all fun w => p.reads.all fun r => rangeApart w r)

/-- The bytes of the footprint that do not respond (60_exceptions.md rule R167). -/
def silentBytes (pf : Platform) (p : Plan) : List Addr :=
  (planRanges p).flatMap fun r => (rangeAddrs r).filter fun a => !(responds pf a)

/-- Why a command is outside the contract, if it is (20_memory.md rules R50, R59, R67, R68). Log entries 9, 10, 11, 14. -/
def contractBreach (s : State) (p : Plan) : Option Refusal :=
  if (planRanges p).any fun r => !(rangeApart r (windowRange s.platform)) then some .windowInFootprint
  else if !(planApart p) then some .illFormedFootprint
  else if (planRanges p).any fun r => s.platform.devices.any fun d => !(rangeApart r d) then some .deviceInFootprint
  else if !s.platform.coherent && s.hostDirty.any fun a => p.reads.any fun r => rangeHas r a then
    some .cacheNotMaintained
  else none

/-- Every destination byte gets its final value (20_memory.md rule R58). -/
def applyStores : List Store → Memory → Memory
  | [], m => m
  | st :: sts, m => applyStores sts (writeByte m st.addr st.val)

/-- What a destination byte holds, or is seen to hold, when a command is cut short: its old value or its final one,
or any value where the final one is taken from a byte that did not respond (60_exceptions.md rule R167,
70_reset_and_hazards.md rule R192). -/
def drawnByte (pf : Platform) (k : Nat) (st : Store) (old : Byte) : Byte :=
  if st.takenFrom.any fun a => !(responds pf a) then Config.drawByte k
  else if Config.drawFinal k then st.val else old

/-- A command is cut short: every destination byte is drawn, the one numbered `k` first. -/
def scatterStores (pf : Platform) : Nat → List Store → Memory → Memory
  | _, [], m => m
  | k, st :: sts, m =>
    scatterStores pf (k + 1) sts (writeByte m st.addr (drawnByte pf k st (readByte m st.addr)))

/-- One of `v :: vs`, drawn; the only one where there is one. -/
def pickOne {α : Type} (k : Nat) (v : α) (vs : List α) : α :=
  match vs with
  | [] => v
  | _ :: _ => (v :: vs).getD (Config.drawIndex k % (vs.length + 1)) v

/-! Acceptance (60_exceptions.md rule R161) -/

/-- CMD receives the word. -/
def State.withCmd (s : State) (v : Word) : State := { s with cmd := v }

/-- The completion record is cleared, as acceptance does (60_exceptions.md rule R161). -/
def State.clearRecord (s : State) : State :=
  { s with done := false, err := false, errcode := .noError, errval := 0#32, outCount := 0#32 }

/-- An error completion at acceptance (60_exceptions.md rule R163): this hardware's exception entry. -/
def State.completeError (s : State) (code : ErrCode) (val : Word) : State :=
  { s with err := true, errcode := code, errval := val, outCount := 0#32, done := true }

/-- L is taken from the command's fields and the parameter registers, and the engine starts
(60_exceptions.md rule R161, 10_state.md rule R42). -/
def State.latch (s : State) (op : Op) (be : Bool) (bps : BitVec 8) (ch : BitVec 16) : State :=
  { s with
    latched := { op := op, be := be, bps := bps, ch := ch, src := s.srcAddr, len := s.srcLen, dst0 := s.dst0Addr,
                 dst1 := s.dst1Addr }
    phase := .running }

/-- Acceptance of a command: the record is cleared, then the command fails its check with the given code and value,
or is latched (60_exceptions.md rules R161, R163). -/
def State.accept (s : State) (bad : Option (ErrCode × Word)) (op : Op) (be : Bool) (bps : BitVec 8) (ch : BitVec 16) :
    State :=
  match bad with
  | some (code, val) => s.clearRecord.completeError code val
  | none => s.clearRecord.latch op be bps ch

/-- Acceptance of a word with a reserved opcode (30_encoding.md rule R80, 60_exceptions.md rule R161). -/
def State.acceptIllegal (s : State) (op : BitVec 4) : State :=
  s.clearRecord.completeError .illegalOp (op.setWidth 32)

/-- A CMD write while BUSY = 1 (60_exceptions.md rule R162). -/
def State.overrun (s : State) : State := { s with ovr := true }

/-! Completion (60_exceptions.md rules R165 and R167) -/

/-- What a completed command leaves for the host to observe: its footprint and the old destination bytes
(20_memory.md rule R63), and, without coherence, the bytes the host must invalidate (rule R67). The old value of a byte
the host wrote and has not written back is the host's, and its mark goes: DESIGN CHOICE (unsafe), log entry 25. -/
def State.retire (s : State) (p : Plan) : State :=
  { s with
    unobserved :=
      { touched := planFootprint p, old := p.stores.map fun st => (st.addr.toNat, readByte s.mem st.addr) } :: s.unobserved
    hostDirty := s.hostDirty.filter fun a => !(p.stores.any fun st => st.addr == a)
    hostStale := if s.platform.coherent then s.hostStale else p.stores.map (·.addr) ++ s.hostStale }

/-- The successful completion of 60_exceptions.md rule R165. -/
def State.completeOk (s : State) (p : Plan) : State :=
  { s.retire p with
    mem := applyStores p.stores s.mem
    outCount := BitVec.ofNat 32 p.count
    phase := .idle
    done := true }

/-- The BusError completion of 60_exceptions.md rule R167; `a :: as` are the footprint's bytes that do not respond. -/
def State.completeBusError (s : State) (p : Plan) (a : Addr) (as : List Addr) : State :=
  { s.retire p with
    mem := scatterStores s.platform (s.draws + 1) p.stores s.mem
    err := true
    errcode := .busError
    errval := pickOne s.draws a as
    outCount := 0#32
    phase := .idle
    done := true
    draws := s.draws + 1 + p.stores.length }

/-- The engine's step for a command whose plan is `p` (60_exceptions.md rule R165). -/
def State.finish (s : State) (p : Plan) : Outcome :=
  match contractBreach s p with
  | some r => .refused r
  | none =>
    match silentBytes s.platform p with
    | [] => .next (s.completeOk p)
    | a :: as => .next (s.completeBusError p a as)

/-! Acknowledgement and observation: the return from a completion (60_exceptions.md rule R174) -/

/-- A STATUS write clears the W1C fields whose bit is 1 (10_state.md rules R25, R27, R29). -/
def State.ackStatus (s : State) (v : Word) : State :=
  { s with done := s.done && !(v.getLsbD 1), ovr := s.ovr && !(v.getLsbD 3) }

/-- The host has observed DONE = 1: every completed command's writes are visible (20_memory.md rule R63). -/
def State.observe (s : State) : State := { s with unobserved := [] }

/-- A host access is answered with a value, or not at all. -/
def State.answer (s : State) (v : Option Word) : State := { s with readData := v }

/-- The pending inputs are replaced. -/
def State.withInputs (s : State) (q : List Input) : State := { s with inputs := q }

/-- System memory is replaced. -/
def State.withMem (s : State) (m : Memory) : State := { s with mem := m }

/-- `n` free values have been used. -/
def State.useDraws (s : State) (n : Nat) : State := { s with draws := s.draws + n }

/-- The host's cache marks are replaced. -/
def State.withMarks (s : State) (dirty stale : List Addr) : State := { s with hostDirty := dirty, hostStale := stale }

/-! Reset (70_reset_and_hazards.md rules R190 to R193) -/

/-- Every register and the engine phase take their reset values while the reset input is asserted; system memory,
the platform and the surroundings stay (rules R191, R193). Log entry 15. -/
def State.resetRegs (s : State) : State :=
  { State.reset with
    mem := s.mem, platform := s.platform, hostDirty := s.hostDirty, hostStale := s.hostStale, inputs := s.inputs
    readData := s.readData, draws := s.draws, resetLine := true }

/-- A running command is abandoned (rule R192): every destination byte is drawn, and without coherence the host's
copies are old. The value before the command of a byte the host wrote and has not written back is the host's, and its
mark goes, also where the byte is drawn old: DESIGN CHOICE (unsafe), log entry 25. -/
def State.abandon (s : State) (p : Plan) : State :=
  { s with
    mem := scatterStores s.platform s.draws p.stores s.mem
    hostDirty := s.hostDirty.filter fun a => !(p.stores.any fun st => st.addr == a)
    hostStale := if s.platform.coherent then s.hostStale else p.stores.map (·.addr) ++ s.hostStale
    draws := s.draws + p.stores.length }

/-- The reset input is released (rule R190). -/
def State.releaseReset (s : State) : State := { s with resetLine := false }

end Sys2Proof.Machine
end

