-- ==== Sys2Proof/Machine/Operands.lean ====
section
/-! DEFINITION. The operands of the commands: raw samples and their byte order, element stores, the destinations, the
acceptance checks, and the command L stands for. -/

namespace Sys2Proof.Machine

open Sys2Proof

/-- A raw sample as the engine has it: the 16-bit pattern, and which source bytes its low and high byte are taken
from. -/
structure Sample where
  val : Half
  lowFrom : List Addr
  highFrom : List Addr
deriving DecidableEq, Repr

/-- An 8-bit raw sample, zero-extended, not centred (40_conv.md rule R102). -/
def sample8 (m : Memory) (a : Addr) : Sample :=
  { val := (readByte m a).setWidth 16, lowFrom := [a], highFrom := [] }

/-- A 16-bit raw sample: big-endian takes the first byte consumed as the high one, little-endian as the low one
(40_conv.md rules R103, R104; 20_memory.md rule R54). -/
def sample16 (be : Bool) (m : Memory) (a : Addr) : Sample :=
  let b0 := readByte m a
  let b1 := readByte m (addrPlus a 1)
  if be then { val := b0 ++ b1, lowFrom := [addrPlus a 1], highFrom := [a] }
  else { val := b1 ++ b0, lowFrom := [a], highFrom := [addrPlus a 1] }

/-- `MemWrite(d, 2, s)` (20_memory.md rule R55). -/
def storeSample (d : Addr) (x : Sample) : List Store :=
  [ { addr := d, val := x.val.extractLsb' 0 8, takenFrom := x.lowFrom },
    { addr := addrPlus d 1, val := x.val.extractLsb' 8 8, takenFrom := x.highFrom } ]

/-- `MemWrite(d, 4, v)` of a float pattern taken from the given source bytes (20_memory.md rule R56). Bits [7:0] of the
pattern are 0 for every sample (42_fnorm.md rule R142), so its first byte is taken from none. Log entry 7. -/
def storeFloat (d : Addr) (v : Word) (takenFrom : List Addr) : List Store :=
  [ { addr := d, val := v.extractLsb' 0 8, takenFrom := [] },
    { addr := addrPlus d 1, val := v.extractLsb' 8 8, takenFrom := takenFrom },
    { addr := addrPlus d 2, val := v.extractLsb' 16 8, takenFrom := takenFrom },
    { addr := addrPlus d 3, val := v.extractLsb' 24 8, takenFrom := takenFrom } ]

/-- `D(c)`: the destination of channel c of a split (41_split.md). -/
def splitDest (l : Latched) (c : Nat) : Addr := if c = 0 then l.dst0 else l.dst1

/-- CONV's check (60_exceptions.md rule R161): UnsupportedFormat(BPS). -/
def convCheck (bps : BitVec 8) : Option (ErrCode × Word) :=
  if bps = 8#8 ∨ bps = 16#8 then none else some (.unsupportedFormat, bps.setWidth 32)

/-- SPLIT8's and SPLIT16's check (41_split.md rule R124): UnsupportedFormat(CH). -/
def splitCheck (ch : BitVec 16) : Option (ErrCode × Word) :=
  if ch = 1#16 ∨ ch = 2#16 then none else some (.unsupportedFormat, ch.setWidth 32)

/-- FNORM's check (42_fnorm.md rule R145): ZeroChannels, with ERRVAL 0. -/
def fnormCheck (ch : BitVec 16) : Option (ErrCode × Word) :=
  if ch = 0#16 then some (.zeroChannels, 0#32) else none

/-- The command that L stands for (10_state.md rule R42). -/
def latchedInstr (l : Latched) : Instr :=
  match l.op with
  | .conv => .conv l.bps l.be
  | .split8 => .split8 l.ch
  | .split16 => .split16 l.ch l.be
  | .fnorm => .fnorm l.ch

end Sys2Proof.Machine
end

