-- ==== Sys2Proof/Machine/Conv.lean ====
section
/-! DEFINITION. CONV, the bit-depth normalizer (40_conv.md). -/

namespace Sys2Proof.Machine

open Sys2Proof

/-- Bytes per raw sample, `w <- L.bps / 8` (40_conv.md rule R101). -/
def convWidth (bps : BitVec 8) : Nat := bps.toNat / 8

/-- Native samples produced, `n <- floor(L.len / w)` (40_conv.md rule R105). -/
def convCount (bps : BitVec 8) (l : Latched) : Nat := l.len.toNat / convWidth bps

/-- Raw sample i of the stream (40_conv.md rule R101). -/
def convSample (bps : BitVec 8) (be : Bool) (l : Latched) (m : Memory) (i : Nat) : Sample :=
  if bps = 8#8 then sample8 m (addrPlus l.src i) else sample16 be m (addrPlus l.src (2 * i))

/-- The pseudocode of 40_conv.md rule R101 and the footprint of 20_memory.md rule R52. -/
def convPlan (bps : BitVec 8) (be : Bool) (l : Latched) (m : Memory) : Plan :=
  let n := convCount bps l
  { reads := [{ base := l.src, len := convWidth bps * n }]
    writes := [{ base := l.dst0, len := 2 * n }]
    unread := []
    stores := (List.range n).flatMap fun i => storeSample (addrPlus l.dst0 (2 * i)) (convSample bps be l m i)
    count := n }

/-- CONV: its completion while the engine is RUNNING (40_conv.md rule R101, 60_exceptions.md rule R165), its
acceptance while it is IDLE (rule R161). Log entry 2. -/
def execConv (bps : BitVec 8) (be : Bool) (s : State) : Outcome :=
  if s.phase = .running then s.finish (convPlan bps be s.latched s.mem)
  else .next (s.accept (convCheck bps) .conv be bps (chField s.cmd))

end Sys2Proof.Machine
end

