-- ==== Sys2Proof/Machine/Float.lean ====
section
/-! DEFINITION. The binary32 pattern of a native sample divided by 32768 (42_fnorm.md rule R142). -/

namespace Sys2Proof.Machine

open Sys2Proof

/-- `(sgn << 31) | ((k + 112) << 23) | ((mag - 2^k) << (23 - k))`, where k = floor(log2 mag)
(42_fnorm.md rule R142). -/
def packFloat (sgn : Bool) (mag : Nat) : Word :=
  let k := mag.log2
  ((BitVec.ofBool sgn).setWidth 32 <<< 31) ||| (BitVec.ofNat 32 (k + 112) <<< 23) |||
    (BitVec.ofNat 32 (mag - 2 ^ k) <<< (23 - k))

/-- `F32(toS16(u) / 32768)` (42_fnorm.md rule R142). -/
def normFloat (u : Half) : Word :=
  if u.toInt = 0 then 0#32 else packFloat (decide (u.toInt < 0)) u.toInt.natAbs

end Sys2Proof.Machine
end

