-- ==== Sys2Proof/Machine/Fnorm.lean ====
section
/-! DEFINITION. FNORM, the integer-to-float normalizer (42_fnorm.md). -/

namespace Sys2Proof.Machine

open Sys2Proof

/-- Whole frames, `F <- floor(L.len / L.ch)`, of samples (42_fnorm.md rule R141). -/
def fnormFrames (ch : BitVec 16) (l : Latched) : Nat := l.len.toNat / ch.toNat

/-- The address of entry c of the pointer table (42_fnorm.md rule R143). -/
def entryAddr (l : Latched) (c : Nat) : Addr := addrPlus l.dst0 (4 * c)

/-- `ptr[c]` (42_fnorm.md rule R141). -/
def tableEntry (l : Latched) (m : Memory) (c : Nat) : Addr := readWord m (entryAddr l c)

/-- All four bytes of entry c respond, so that the engine has read it (60_exceptions.md rule R167). -/
def entryRead (pf : Platform) (l : Latched) (c : Nat) : Bool :=
  (List.range 4).all fun k => responds pf (addrPlus (entryAddr l c) k)

/-- The address of sample c of frame i (42_fnorm.md rule R141). -/
def fnormSource (ch : BitVec 16) (l : Latched) (i c : Nat) : Addr := addrPlus l.src (2 * (ch.toNat * i + c))

/-- The buffer of channel c, `[ptr[c], ptr[c] + 4F)` (20_memory.md rule R52). -/
def fnormDest (ch : BitVec 16) (l : Latched) (m : Memory) (c : Nat) : Range :=
  { base := tableEntry l m c, len := 4 * fnormFrames ch l }

/-- The float stores of the pseudocode of 42_fnorm.md rule R141. -/
def fnormStores (ch : BitVec 16) (l : Latched) (m : Memory) : List Store :=
  (List.range (fnormFrames ch l)).flatMap fun i => (List.range ch.toNat).flatMap fun c =>
    storeFloat (addrPlus (tableEntry l m c) (4 * i)) (normFloat (readHalf m (fnormSource ch l i c)))
      [fnormSource ch l i c, addrPlus (fnormSource ch l i c) 1]

/-- The pseudocode of 42_fnorm.md rule R141 and the footprint of 20_memory.md rule R52: the table is read only if
F > 0 (42_fnorm.md rule R143); the write ranges are those of the entries that were read, and no float is written if
an entry was not (60_exceptions.md rule R167; log entry 8). -/
def fnormPlan (ch : BitVec 16) (l : Latched) (m : Memory) (pf : Platform) : Plan :=
  let f := fnormFrames ch l
  let source : Range := { base := l.src, len := 2 * ch.toNat * f }
  if f = 0 then { reads := [source], writes := [], unread := [], stores := [], count := 0 }
  else
    { reads := [source, { base := l.dst0, len := 4 * ch.toNat }]
      writes := ((List.range ch.toNat).filter (entryRead pf l)).map (fnormDest ch l m)
      unread := ((List.range ch.toNat).filter fun c => !(entryRead pf l c)).map (fnormDest ch l m)
      stores := if (List.range ch.toNat).all (entryRead pf l) then fnormStores ch l m else []
      count := f }

/-- FNORM: its completion while the engine is RUNNING (42_fnorm.md rule R141, 60_exceptions.md rule R165), its
acceptance while it is IDLE (42_fnorm.md rule R145). -/
def execFnorm (ch : BitVec 16) (s : State) : Outcome :=
  if s.phase = .running then s.finish (fnormPlan ch s.latched s.mem s.platform)
  else .next (s.accept (fnormCheck ch) .fnorm (beField s.cmd) (bpsField s.cmd) ch)

end Sys2Proof.Machine
end

