-- ==== Sys2Proof/Machine/Split.lean ====
section
/-! DEFINITION. SPLIT8 and SPLIT16, the channel splitter (41_split.md). -/

namespace Sys2Proof.Machine

open Sys2Proof

/-- Whole frames of `ch` raw samples of `w` bytes, `F = floor(L.len / (w * L.ch))` (41_split.md rule R120). -/
def splitFrames (w : Nat) (ch : BitVec 16) (l : Latched) : Nat := l.len.toNat / (w * ch.toNat)

/-- The pseudocode of 41_split.md rules R121 and R125, and the footprint of 20_memory.md rule R52: `sampleAt` reads
the raw sample of `w` bytes at an address. -/
def splitPlan (w : Nat) (sampleAt : Addr → Sample) (ch : BitVec 16) (l : Latched) : Plan :=
  let f := splitFrames w ch l
  { reads := [{ base := l.src, len := w * ch.toNat * f }]
    writes := (List.range ch.toNat).map fun c => { base := splitDest l c, len := 2 * f }
    unread := []
    stores := (List.range f).flatMap fun i => (List.range ch.toNat).flatMap fun c =>
      storeSample (addrPlus (splitDest l c) (2 * i)) (sampleAt (addrPlus l.src (w * (ch.toNat * i + c))))
    count := f }

/-- SPLIT8's plan (41_split.md rule R121). -/
def split8Plan (ch : BitVec 16) (l : Latched) (m : Memory) : Plan := splitPlan 1 (sample8 m) ch l

/-- SPLIT16's plan (41_split.md rule R125). -/
def split16Plan (ch : BitVec 16) (be : Bool) (l : Latched) (m : Memory) : Plan := splitPlan 2 (sample16 be m) ch l

/-- SPLIT8: its completion while the engine is RUNNING (41_split.md rule R121, 60_exceptions.md rule R165), its
acceptance while it is IDLE (41_split.md rule R124). -/
def execSplit8 (ch : BitVec 16) (s : State) : Outcome :=
  if s.phase = .running then s.finish (split8Plan ch s.latched s.mem)
  else .next (s.accept (splitCheck ch) .split8 (beField s.cmd) (bpsField s.cmd) ch)

/-- SPLIT16: its completion while the engine is RUNNING (41_split.md rule R125, 60_exceptions.md rule R165), its
acceptance while it is IDLE (41_split.md rule R124). -/
def execSplit16 (ch : BitVec 16) (be : Bool) (s : State) : Outcome :=
  if s.phase = .running then s.finish (split16Plan ch be s.latched s.mem)
  else .next (s.accept (splitCheck ch) .split16 be (bpsField s.cmd) ch)

end Sys2Proof.Machine
end

