-- ==== Sys2Proof/Machine/Dispatch.lean ====
section
/-! DEFINITION. One arm per command of the opcode table. -/

namespace Sys2Proof.Machine

open Sys2Proof

def exec (i : Instr) (s : State) : Host.Outcome State Fault Refusal :=
  match i with
  | .conv bps be => Sys2Proof.Machine.execConv bps be s
  | .split8 ch => Sys2Proof.Machine.execSplit8 ch s
  | .split16 ch be => Sys2Proof.Machine.execSplit16 ch be s
  | .fnorm ch => Sys2Proof.Machine.execFnorm ch s

end Sys2Proof.Machine
end

