-- ==== Sys2Proof/Machine/Flags.lean ====
section
/-! DEFINITION. The status flags and the register window: what each register reads as, what a write to it does, and
the interrupt line (10_state.md). -/

namespace Sys2Proof.Machine

open Sys2Proof

/-- The number of an error code (60_exceptions.md rule R160). -/
def ErrCode.number : ErrCode → BitVec 4
  | .noError => 0#4
  | .unsupportedFormat => 1#4
  | .zeroChannels => 2#4
  | .illegalOp => 3#4
  | .busError => 4#4

/-- STATUS.BUSY reads the engine phase (10_state.md rule R43). -/
def State.busy (s : State) : Bool := decide (s.phase = .running)

/-- STATUS as it reads (10_state.md rule R25): ERRCODE, OVR, ERR, DONE, BUSY from bit 7 down, zero above. -/
def State.statusWord (s : State) : Word :=
  (s.errcode.number ++ BitVec.ofBool s.ovr ++ BitVec.ofBool s.err ++ BitVec.ofBool s.done ++
    BitVec.ofBool s.busy).setWidth 32

/-- IRQ_EN as it reads (10_state.md rule R37). -/
def State.irqEnWord (s : State) : Word := (BitVec.ofBool s.doneIe).setWidth 32

/-- The interrupt line (10_state.md rule R41). -/
def State.irq (s : State) : Bool := s.done && s.doneIe

/-- What the register at an offset reads as (10_state.md rules R22, R38). -/
def State.readReg (s : State) (off : BitVec 6) : Word :=
  match off.toNat with
  | 0x00 => Config.idValue
  | 0x04 => s.cmd
  | 0x08 => s.statusWord
  | 0x0C => s.errval
  | 0x10 => s.srcAddr
  | 0x14 => s.srcLen
  | 0x18 => s.dst0Addr
  | 0x1C => s.dst1Addr
  | 0x20 => s.outCount
  | 0x24 => s.irqEnWord
  | _ => 0#32

/-- What a register write other than one to CMD does (10_state.md rules R22, R38, R40): the parameter registers and
IRQ_EN take the value, STATUS clears its W1C fields, everything else ignores it. -/
def State.writeReg (s : State) (off : BitVec 6) (v : Word) : State :=
  match off.toNat with
  | 0x08 => s.ackStatus v
  | 0x10 => { s with srcAddr := v }
  | 0x14 => { s with srcLen := v }
  | 0x18 => { s with dst0Addr := v }
  | 0x1C => { s with dst1Addr := v }
  | 0x24 => { s with doneIe := v.getLsbD 0 }
  | _ => s

/-- The offsets of CMD and STATUS (10_state.md rule R22). -/
def cmdOffset : BitVec 6 := 0x04#6

/-- See `cmdOffset`. -/
def statusOffset : BitVec 6 := 0x08#6

/-- The access is the aligned 32-bit one that 10_state.md rule R39 gives a meaning. -/
def accessLegal (off : BitVec 6) (bytes : Nat) : Bool := decide (bytes = 4) && decide (off.toNat % 4 = 0)

end Sys2Proof.Machine
end

