-- ==== Sys2Proof/Machine/Bus.lean ====
section
/-! DEFINITION. What each input does: register accesses, host memory accesses, reset, cache maintenance, and the
engine's own step; and which of them the next step serves. -/

namespace Sys2Proof.Machine

open Sys2Proof

/-! The running command -/

/-- What a command does to memory, from L, memory and the platform (60_exceptions.md rule R165). -/
def planOf (i : Instr) (l : Latched) (m : Memory) (pf : Platform) : Plan :=
  match i with
  | .conv bps be => convPlan bps be l m
  | .split8 ch => split8Plan ch l m
  | .split16 ch be => split16Plan ch be l m
  | .fnorm ch => fnormPlan ch l m pf

/-- The plan of the command in L. -/
def State.runningPlan (s : State) : Plan := planOf (latchedInstr s.latched) s.latched s.mem s.platform

/-- The engine's step: the completion of L while BUSY = 1 (60_exceptions.md rule R165); while BUSY = 0, or while reset
is asserted, it has none and waits (70_reset_and_hazards.md rules R190, R194). -/
def State.engineStep (s : State) : Outcome :=
  if s.phase = .running ∧ s.resetLine = false then exec (latchedInstr s.latched) s else .next s

/-- A byte of the footprint of a command whose DONE = 1 the host has not observed
(70_reset_and_hazards.md rule R199). Log entry 13. -/
def State.guarded (s : State) (a : Addr) : Bool :=
  (s.busy && (planFootprint s.runningPlan).any fun r => rangeHas r a) ||
    s.unobserved.any fun f => f.touched.any fun r => rangeHas r a

/-! Register accesses -/

/-- A CMD write: a command issue while BUSY = 0 (60_exceptions.md rule R161), an overrun while BUSY = 1 (rule R162). -/
def State.writeCmd (s : State) (v : Word) : Outcome :=
  if s.phase = .running then .next s.overrun
  else
    match decode v with
    | .error (.illegalOp op) => .next ((s.withCmd v).acceptIllegal op)
    | .ok i => exec i (s.withCmd v)

/-- A register write (10_state.md rule R39); ignored while reset is asserted (70_reset_and_hazards.md rule R190). -/
def State.hostWrite (s : State) (off : BitVec 6) (bytes : Nat) (v : Word) : Outcome :=
  if s.resetLine then .next s
  else if !(accessLegal off bytes) then .refused .registerAccess
  else if off = cmdOffset then s.writeCmd v
  else .next (s.writeReg off v)

/-- STATUS reads, or the line is sampled: the host has observed DONE = 1 if that is what it got
(20_memory.md rule R63, 70_reset_and_hazards.md rule R196). Log entry 13. -/
def State.observeIf (s : State) (seen : Bool) : State := if seen then s.observe else s

/-- A register read (10_state.md rule R39): it has no side effect on PCMC. While reset is asserted it is ignored
(70_reset_and_hazards.md rule R190). -/
def State.hostRead (s : State) (off : BitVec 6) (bytes : Nat) : Outcome :=
  if s.resetLine then .next (s.answer none)
  else if !(accessLegal off bytes) then .refused .registerAccess
  else .next ((s.observeIf (decide (off = statusOffset) && s.done)).answer (some (s.readReg off)))

/-- The `irq` line is sampled (10_state.md rule R41). -/
def State.hostSampleIrq (s : State) : State :=
  (s.observeIf s.irq).answer (some ((BitVec.ofBool s.irq).setWidth 32))

/-! Host accesses to system memory -/

/-- A byte access to the register window is no aligned 32-bit one (10_state.md rule R39); it is ignored while reset is
asserted (70_reset_and_hazards.md rule R190). -/
def State.windowAccess (s : State) : Outcome :=
  if s.resetLine then .next (s.answer none) else .refused .registerAccess

/-- A byte of system memory is written by an agent other than the engine (20_memory.md rules R51, R63, R67). Without
coherence the write is taken as the host's own, through its cache, whichever agent made it: DESIGN CHOICE (unsafe), log
entry 24. -/
def State.hostMemWrite (s : State) (a : Addr) (b : Byte) : Outcome :=
  if rangeHas (windowRange s.platform) a then s.windowAccess
  else if s.guarded a then .refused .footprintTouched
  else
    .next ((s.withMem (writeByte s.mem a b)).withMarks (if s.platform.coherent then s.hostDirty else a :: s.hostDirty)
      s.hostStale)

/-- The bytes a host read of `a` may return besides the one memory holds: what the byte held before a completed
command that is not yet observed, and what the running command may have written there already
(20_memory.md rule R63). -/
def State.otherViews (s : State) (a : Addr) : List Byte :=
  (s.unobserved.flatMap fun f => (f.old.filter fun c => c.1 == a.toNat).map (·.2)) ++
    (if s.busy then
      (s.runningPlan.stores.filter fun st => st.addr == a).map fun st =>
        drawnByte s.platform (s.draws + 1) st (readByte s.mem a)
    else [])

/-- A byte of system memory is read by the host (20_memory.md rules R51, R63, R67). Without coherence a destination byte
of the running command is still answered, old or final, as rule R63 has it, and only from the completion on is it
refused until it is invalidated: DESIGN CHOICE (unsafe), log entry 26. -/
def State.hostMemRead (s : State) (a : Addr) : Outcome :=
  if rangeHas (windowRange s.platform) a then s.windowAccess
  else if s.hostStale.contains a then .refused .cacheNotMaintained
  else
    match (if s.busy && planHas s.runningPlan a then contractBreach s s.runningPlan else none) with
    | some r => .refused r
    | none =>
      .next ((s.useDraws 2).answer (some ((pickOne s.draws (readByte s.mem a) (s.otherViews a)).setWidth 32)))

/-! Reset -/

/-- The reset input is asserted (70_reset_and_hazards.md rules R190 to R193). -/
def State.assertReset (s : State) : Outcome :=
  if s.phase = .running then
    match contractBreach s s.runningPlan with
    | some r => .refused r
    | none => .next (s.abandon s.runningPlan).resetRegs
  else .next s.resetRegs

/-! Cache maintenance (20_memory.md rule R67; log entry 14) -/

/-- The host writes back a range: a write of every byte it holds dirty there. -/
def State.cleanRange (s : State) (r : Range) : Outcome :=
  if s.hostDirty.any fun a => rangeHas r a && s.guarded a then .refused .footprintTouched
  else .next (s.withMarks (s.hostDirty.filter fun a => !(rangeHas r a)) s.hostStale)

/-- A destination byte of a completed command whose DONE = 1 the host has not observed (20_memory.md rule R67). -/
def State.awaited (s : State) (a : Addr) : Bool := s.unobserved.any fun f => f.old.any fun c => c.1 == a.toNat

/-- The host invalidates a range: it counts for every byte whose writer's DONE it has observed, whatever a later command
reads (70_reset_and_hazards.md rule R196), and must drop no write of the host's own. -/
def State.invalidateRange (s : State) (r : Range) : Outcome :=
  if s.hostDirty.any fun a => rangeHas r a then .refused .cacheNotMaintained
  else .next (s.withMarks s.hostDirty (s.hostStale.filter fun a => !(rangeHas r a) || s.awaited a))

/-- The bytes that do not respond become those of the ranges (60_exceptions.md rule R170). -/
def State.withSilent (s : State) (rs : List Range) : State := { s with platform := { s.platform with silent := rs } }

/-! The scheduler -/

/-- One input is served; it is no longer in the list. -/
def State.serve (s : State) (e : Input) : Outcome :=
  match e with
  | .regWrite off bytes v => s.hostWrite off bytes v
  | .regRead off bytes => s.hostRead off bytes
  | .waitDone => s.hostRead statusOffset 4
  | .sampleIrq => .next s.hostSampleIrq
  | .memWrite a b => s.hostMemWrite a b
  | .memRead a => s.hostMemRead a
  | .engine => s.engineStep
  | .assertReset => s.assertReset
  | .releaseReset => .next s.releaseReset
  | .cacheClean r => s.cleanRange r
  | .cacheInvalidate r => s.invalidateRange r
  | .setSilent rs => .next (s.withSilent rs)

/-- One step: the oldest input is served; with none pending, or while the oldest is a WAIT and DONE = 0, the engine
takes its step (70_reset_and_hazards.md rule R205; log entry 1). -/
def State.advance (s : State) : Outcome :=
  match s.inputs with
  | [] => s.engineStep
  | .waitDone :: rest => if s.done then (s.withInputs rest).serve .waitDone else s.engineStep
  | e :: rest => (s.withInputs rest).serve e

/-- The host is about to write a word to CMD, with the engine IDLE and the reset input released, so that the next
step accepts the command (log entry 1). -/
def State.queueCommand (s : State) (v : Word) : State :=
  { s with phase := .idle, resetLine := false, inputs := .regWrite cmdOffset 4 v :: s.inputs }

end Sys2Proof.Machine
end

