-- ==== Sys2Proof/Safety.lean ====
section
/-! DEFINITION. The terms that claims use: the invariant every step keeps, a successful completion, the real number a
binary32 pattern stands for, and what two states must share for a command to do the same in both. -/

namespace Sys2Proof.Machine

open Sys2Proof

/-- The completion record is as acceptance leaves it (60_exceptions.md rule R161). -/
def State.RecordClear (s : State) : Prop :=
  s.done = false ∧ s.err = false ∧ s.errcode = .noError ∧ s.errval = 0#32 ∧ s.outCount = 0#32

/-- What every step keeps. -/
structure State.Inv (s : State) : Prop where
  /-- Memory is in its canonical form. -/
  memWf : Memory.wf s.mem
  /-- While a command runs the record reads as acceptance left it (70_reset_and_hazards.md rule R198). -/
  recordClear : s.phase = .running → s.RecordClear
  /-- CMD reads back the word L was taken from (10_state.md rule R42). -/
  cmdLatched : s.phase = .running → decode s.cmd = .ok (latchedInstr s.latched)
  /-- A command that fails its check never runs (10_state.md rule R26). -/
  latchedLegal : s.phase = .running → (latchedInstr s.latched).wellFormed = true
  /-- ERR is 1 exactly when ERRCODE names an error (10_state.md rules R28, R30). -/
  errIff : s.err = true ↔ s.errcode ≠ .noError
  /-- Without an error ERRVAL is 0 (10_state.md rule R31). -/
  errvalZero : s.errcode = .noError → s.errval = 0#32
  /-- OUT_COUNT is 0 after an error completion (10_state.md rule R36). -/
  outCountZero : s.err = true → s.outCount = 0#32
  /-- While reset is asserted the engine is IDLE and every register reads its reset value, STATUS.DONE among them, so
  that the machine is in the reset state on release (70_reset_and_hazards.md rules R190, R191; log entry 15). -/
  resetIdle : s.resetLine = true → s.phase = .idle ∧ s.done = false ∧ ∀ off, s.readReg off = State.reset.readReg off

/-- The address lies in a write range of the plan (20_memory.md rule R52). -/
def planWrites (p : Plan) (a : Addr) : Bool := p.writes.any fun r => rangeHas r a

/-- The address lies in a read range of the plan (20_memory.md rule R52). -/
def planReads (p : Plan) (a : Addr) : Bool := p.reads.any fun r => rangeHas r a

/-- The command whose plan is `p` is inside the contract: what 20_memory.md rules R50, R59, R67 and R68 ask of its
footprint, said address by address. -/
structure InContract (s : State) (p : Plan) : Prop where
  /-- No write range has 2^32 bytes or more (rule R60). -/
  writesShort : ∀ w ∈ p.writes, w.len < 2 ^ 32
  /-- The write ranges are disjoint from each other (rule R68). -/
  writesApart : p.writes.Pairwise fun w v => ∀ a, ¬(rangeHas w a = true ∧ rangeHas v a = true)
  /-- No write range meets a read range (rule R68). -/
  readsApart : ∀ a, ¬(planReads p a = true ∧ planWrites p a = true)
  /-- The register window is not in the footprint (rules R50, R68). -/
  noWindow : ∀ a, planHas p a = true → rangeHas (windowRange s.platform) a = false
  /-- The footprint is ordinary memory (rule R59). -/
  noDevice : ∀ a, planHas p a = true → ∀ d ∈ s.platform.devices, rangeHas d a = false
  /-- Without coherence the host has written back the read ranges (rule R67). -/
  writtenBack : s.platform.coherent = true ∨ ∀ a ∈ s.hostDirty, planReads p a = false

/-- The engine runs a command inside the contract whose footprint responds: the condition of a successful completion
(60_exceptions.md rule R165). That P_MEM_RESPONDS is asked once, at the engine's step, is log entry 22. -/
structure EngineReady (s : State) (p : Plan) : Prop where
  running : s.phase = .running
  inContract : InContract s p
  answered : ∀ a, planHas p a = true → responds s.platform a = true

/-- `t` is `s` after a successful completion that produced `n` elements (60_exceptions.md rules R165, R166): BUSY = 0,
DONE = 1, OUT_COUNT = n; memory and what the host has yet to observe may differ; nothing else does. -/
def CompletedFrom (s t : State) (n : Nat) : Prop :=
  t = { s with
        outCount := BitVec.ofNat 32 n, phase := .idle, done := true
        mem := t.mem, unobserved := t.unobserved, hostDirty := t.hostDirty, hostStale := t.hostStale }

/-- Every byte outside the ranges reads as before. -/
def UnchangedOutside (s t : State) (rs : List Range) : Prop :=
  ∀ a, (rs.any fun r => rangeHas r a) = false → readByte t.mem a = readByte s.mem a

/-- A command cut short: a byte outside the write ranges is unchanged, and a byte inside them whose final value needs
no byte that does not respond holds its old value or its final one (60_exceptions.md rule R167,
70_reset_and_hazards.md rule R192). -/
def CutShort (s t : State) (p : Plan) : Prop :=
  UnchangedOutside s t p.writes ∧
    ∀ a, (∀ st ∈ p.stores, st.addr = a → ∀ b ∈ st.takenFrom, responds s.platform b = true) →
      readByte t.mem a = readByte s.mem a ∨ ∃ st ∈ p.stores, st.addr = a ∧ readByte t.mem a = st.val

/-- The real number that a binary32 pattern stands for, for the patterns that are finite (00_scope.md rule R13,
93_implementation_defined.md G1): sign bit 31, exponent biased by 127 in bits 30 to 23, fraction in bits 22 to 0. -/
def floatValue (p : Word) : ℚ :=
  let e := (p.extractLsb' 23 8).toNat
  let f := (p.extractLsb' 0 23).toNat
  let sgn : ℚ := if p.getLsbD 31 then -1 else 1
  if e = 0 then sgn * (f : ℚ) / 2 ^ 149 else sgn * (1 + (f : ℚ) / 2 ^ 23) * 2 ^ ((e : ℤ) - 127)

end Sys2Proof.Machine
end

