-- ==== Sys2Proof/Certificates/Slice0/Obligations.lean ====
section
/-! DEFINITION. The statements about the model, one definition each. -/

open Sys2Proof Sys2Proof.Machine

/-! The command word -/

/-- The word the encoder writes for a command decodes to that command, with every operand at every value
(30_encoding.md rules R79, R82). -/
def Obligations.DecodeOfEncodeIsTheCommand : Prop :=
  ∀ i : Instr, decode (encode i) = .ok i

/-- Two words that agree on the bits their command reads decode to spellings of one command, and the canonical word of a
decoded command is that word with every other bit 0; CONV reads BE only if BPS = 16 (30_encoding.md rules R73, R74, R77,
R84). -/
def Obligations.DecodeIgnoresUnreadBits : Prop :=
  ∀ (v w : Word) (i : Instr), decode v = .ok i →
    (v &&& readMask i = w &&& readMask i → ∃ j, decode w = .ok j ∧ j.canonical = i.canonical) ∧ canonical v = some (v &&& readMask i)

/-- Spellings of one command behave alike: a running engine does the same, and an idle one answers the same state but
for the operand in L that the command ignores (30_encoding.md rules R77, R84). Where a running command ends in
BUS_ERROR, that both spellings draw the same ERRVAL and the same destination bytes is the model's choice of log entry
6 (unsafe for this claim), not these rules'. -/
def Obligations.SpellingsBehaveAlike : Prop :=
  ∀ (s : State) (i j : Instr), i.canonical = j.canonical →
    (s.phase = .running → i.wellFormed = true → exec i s = exec j s) ∧
    (s.phase = .idle → ∃ t u, exec i s = .next t ∧ exec j s = .next u ∧
      u = { t with latched := { t.latched with be := u.latched.be } })

/-- A word is refused exactly when its opcode is 0 or 5 to 15, with that opcode (30_encoding.md rules R79, R80). -/
def Obligations.ReservedOpcodesAreIllegal : Prop :=
  ∀ (v : Word) (op : BitVec 4), decode v = .error (.illegalOp op) ↔
    op = v.extractLsb' 0 4 ∧ (op = 0#4 ∨ 5 ≤ op.toNat)

/-- The eleven second names expand to the commands and words of the table of 30_encoding.md rule R83. -/
def Obligations.ShortNamesExpandToTheirWords : Prop :=
  [ShortName.conv8, .conv16le, .conv16be, .split8m, .split8s, .split16lem, .split16bem, .split16les, .split16bes,
      .fnormm, .fnorms].map (fun n => (n.expand, encode n.expand)) =
    [(.conv 8#8 false, 0x00000801#32), (.conv 16#8 false, 0x00001001#32), (.conv 16#8 true, 0x00001011#32),
     (.split8 1#16, 0x00010002#32), (.split8 2#16, 0x00020002#32), (.split16 1#16 false, 0x00010003#32),
     (.split16 1#16 true, 0x00010013#32), (.split16 2#16 false, 0x00020003#32), (.split16 2#16 true, 0x00020013#32),
     (.fnorm 1#16, 0x00010004#32), (.fnorm 2#16, 0x00020004#32)]

/-- Words written out from the layout of 30_encoding.md rule R71 decode to their commands, two of them spellings that
are not canonical (rule R84) and one reserved (rule R80). -/
def Obligations.WrittenWordsDecode : Prop :=
  decode 0x00001011#32 = .ok (.conv 16#8 true) ∧ decode 0x00070801#32 = .ok (.conv 8#8 false) ∧
    decode 0x123456E2#32 = .ok (.split8 4660#16) ∧ decode 0x00020013#32 = .ok (.split16 2#16 true) ∧
    decode 0x00030004#32 = .ok (.fnorm 3#16) ∧ decode 0x0002000F#32 = .error (.illegalOp 15#4)

/-- The assembler: a number that fits its field gives the canonical word, `be=` left out is 0, CONV's `be=` is emitted
only with BPS = 16, and nothing else assembles (30_encoding.md rules R77, R82). -/
def Obligations.AssemblerEncodesWhatFits : Prop :=
  (∀ bps w, assemble (.conv bps none) = some w ↔ bps < 256 ∧ w = encode (.conv (BitVec.ofNat 8 bps) false)) ∧
  (∀ bps be w, assemble (.conv bps (some be)) = some w ↔
    bps < 256 ∧ be < 2 ∧ w = encode (.conv (BitVec.ofNat 8 bps) (decide (be = 1 ∧ bps = 16)))) ∧
  (∀ ch w, assemble (.split8 ch) = some w ↔ ch < 65536 ∧ w = encode (.split8 (BitVec.ofNat 16 ch))) ∧
  (∀ ch w, assemble (.split16 ch none) = some w ↔ ch < 65536 ∧ w = encode (.split16 (BitVec.ofNat 16 ch) false)) ∧
  (∀ ch be w, assemble (.split16 ch (some be)) = some w ↔
    ch < 65536 ∧ be < 2 ∧ w = encode (.split16 (BitVec.ofNat 16 ch) (decide (be = 1)))) ∧
  (∀ ch w, assemble (.fnorm ch) = some w ↔ ch < 65536 ∧ w = encode (.fnorm (BitVec.ofNat 16 ch)))

/-! A step runs the decoded command -/

/-- While the engine is IDLE and reset is released, a step that serves a CMD write of a word that decodes to `i` is
exec of `i` with the word in CMD and the write taken from the input list (60_exceptions.md rule R161). -/
def Obligations.StepAcceptsTheDecodedCommand : Prop :=
  ∀ (s : State) (v : Word) (i : Instr) (rest : List Input),
    s.inputs = .regWrite cmdOffset 4 v :: rest → s.resetLine = false → s.phase = .idle → decode v = .ok i →
      step s = exec i ((s.withInputs rest).withCmd v)

/-- While the engine is RUNNING and reset is released, a step that is the engine's is exec of the command in L: with no
input pending, while a WAIT finds DONE = 0, and where the input list says so (60_exceptions.md rule R165; log entry
1). -/
def Obligations.StepCompletesTheLatchedCommand : Prop :=
  ∀ (s : State) (rest : List Input), s.phase = .running → s.resetLine = false →
    (s.inputs = [] → step s = exec (latchedInstr s.latched) s) ∧
    (s.inputs = .waitDone :: rest → s.done = false → step s = exec (latchedInstr s.latched) s) ∧
    (s.inputs = .engine :: rest → step s = exec (latchedInstr s.latched) (s.withInputs rest))

/-- The word that `withFetchWord` places is the command the very next step runs (log entry 1). -/
def Obligations.PlacedCommandIsRunNext : Prop :=
  ∀ (s : State) (w : Nat) (i : Instr), decode (BitVec.ofNat 32 w) = .ok i →
    step (s.withFetchWord 32 w) =
      exec i (State.withCmd { s with phase := .idle, resetLine := false } (BitVec.ofNat 32 w))

/-- With the engine IDLE and nothing pending the machine waits (70_reset_and_hazards.md rule R194). -/
def Obligations.IdleMachineWaits : Prop :=
  ∀ s : State, s.phase = .idle → s.inputs = [] → step s = .next s

/-! Acceptance -/

/-- Acceptance of a word, as the pseudocode of 60_exceptions.md rules R161 and R163 gives it: for every word, by its
fields, while STATUS.BUSY = 0. -/
def Obligations.CmdWriteIsAcceptance : Prop :=
  ∀ (s : State) (v : Word) (rest : List Input),
    s.inputs = .regWrite cmdOffset 4 v :: rest → s.resetLine = false → s.phase = .idle →
      let s0 : State := { s with inputs := rest, cmd := v, done := false, err := false, errcode := .noError
                                 errval := 0#32, outCount := 0#32 }
      let fail (code : ErrCode) (val : Word) : State :=
        { s0 with err := true, errcode := code, errval := val, outCount := 0#32, done := true }
      let run (op : Op) : State :=
        { s0 with phase := .running
                  latched := { op := op, be := v.getLsbD 4, bps := v.extractLsb' 8 8, ch := v.extractLsb' 16 16
                               src := s.srcAddr, len := s.srcLen, dst0 := s.dst0Addr, dst1 := s.dst1Addr } }
      let op := v.extractLsb' 0 4
      let bps := v.extractLsb' 8 8
      let ch := v.extractLsb' 16 16
      step s = .next (
        if op = 0#4 ∨ 5 ≤ op.toNat then fail .illegalOp (op.setWidth 32)
        else if op = 1#4 then
          if bps = 8#8 ∨ bps = 16#8 then run .conv else fail .unsupportedFormat (bps.setWidth 32)
        else if op = 2#4 then
          if ch = 1#16 ∨ ch = 2#16 then run .split8 else fail .unsupportedFormat (ch.setWidth 32)
        else if op = 3#4 then
          if ch = 1#16 ∨ ch = 2#16 then run .split16 else fail .unsupportedFormat (ch.setWidth 32)
        else if ch = 0#16 then fail .zeroChannels 0#32 else run .fnorm)

/-- Each command with legal operands, met by an idle engine, clears the record, latches its operands and the parameter
registers, and starts the engine; nothing else changes (60_exceptions.md rule R161). The fields a command ignores come
from the word in CMD. -/
def Obligations.LegalCommandsAreLatched : Prop :=
  ∀ (s : State), s.phase = .idle →
    let run (op : Op) (be : Bool) (bps : BitVec 8) (ch : BitVec 16) : State :=
      { s with done := false, err := false, errcode := .noError, errval := 0#32, outCount := 0#32, phase := .running
               latched := { op := op, be := be, bps := bps, ch := ch, src := s.srcAddr, len := s.srcLen
                            dst0 := s.dst0Addr, dst1 := s.dst1Addr } }
    (∀ bps be, bps = 8#8 ∨ bps = 16#8 → exec (.conv bps be) s = .next (run .conv be bps (chField s.cmd))) ∧
    (∀ ch, ch = 1#16 ∨ ch = 2#16 → exec (.split8 ch) s = .next (run .split8 (beField s.cmd) (bpsField s.cmd) ch)) ∧
    (∀ ch be, ch = 1#16 ∨ ch = 2#16 → exec (.split16 ch be) s = .next (run .split16 be (bpsField s.cmd) ch)) ∧
    (∀ ch, ch ≠ 0#16 → exec (.fnorm ch) s = .next (run .fnorm (beField s.cmd) (bpsField s.cmd) ch))

/-- FNORM with CH = 0 completes at acceptance with ZERO_CHANNELS, ERRVAL = 0, and no memory access
(42_fnorm.md rule R145). -/
def Obligations.FnormZeroChannelsCompletesWithError : Prop :=
  ∀ (s : State), s.phase = .idle →
    exec (.fnorm 0#16) s = .next { s with done := true, err := true, errcode := .zeroChannels, errval := 0#32
                                          outCount := 0#32 } ∧
    ErrCode.zeroChannels.number = 2#4

/-- The channel-count check is the only validation of SPLIT8 and SPLIT16: CH 1 and 2 start the engine without an error,
and any other CH completes at acceptance with UNSUPPORTED_FORMAT and ERRVAL = CH, whatever SRC_LEN is, without a
memory access (41_split.md rule R124). -/
def Obligations.SplitChannelCheckIsTheOnlyValidation : Prop :=
  ∀ (s : State) (ch : BitVec 16) (be : Bool), s.phase = .idle →
    (ch ≠ 1#16 → ch ≠ 2#16 →
      let t : State := { s with done := true, err := true, errcode := .unsupportedFormat, errval := ch.setWidth 32
                                outCount := 0#32 }
      exec (.split8 ch) s = .next t ∧ exec (.split16 ch be) s = .next t) ∧
    (ch = 1#16 ∨ ch = 2#16 → ∀ i ∈ [Instr.split8 ch, Instr.split16 ch be],
      ∃ t, exec i s = .next t ∧ t.phase = .running ∧ t.err = false ∧ t.errcode = .noError ∧ t.errval = 0#32)

/-- CONV with BPS other than 8 and 16 completes at acceptance with UNSUPPORTED_FORMAT and ERRVAL = BPS
(30_encoding.md rule R75, 40_conv.md rule R101). -/
def Obligations.ConvBitDepthCheckCompletesWithError : Prop :=
  ∀ (s : State) (bps : BitVec 8) (be : Bool), s.phase = .idle → bps ≠ 8#8 → bps ≠ 16#8 →
    exec (.conv bps be) s = .next { s with done := true, err := true, errcode := .unsupportedFormat
                                           errval := bps.setWidth 32, outCount := 0#32 }

/-- A CMD write while the engine is IDLE, whatever its word, neither reads nor writes memory: with other contents the
same happens, and the contents stay (60_exceptions.md rule R164, and rule R161 for the words that pass). -/
def Obligations.AcceptanceAccessesNoMemory : Prop :=
  ∀ (s : State) (v : Word) (rest : List Input),
    s.inputs = .regWrite cmdOffset 4 v :: rest → s.resetLine = false → s.phase = .idle →
      ∃ t, step s = .next t ∧ t.mem = s.mem ∧ ∀ m : Memory, step (s.withMem m) = .next (t.withMem m)

/-- A CMD write while BUSY = 1 sets OVR and does nothing else (60_exceptions.md rule R162). -/
def Obligations.CmdWriteWhileBusyOnlySetsOvr : Prop :=
  ∀ (s : State) (v : Word) (rest : List Input),
    s.inputs = .regWrite cmdOffset 4 v :: rest → s.resetLine = false → s.phase = .running →
      step s = .next { s with inputs := rest, ovr := true }

/-! Completion: each command's result, and what it leaves unchanged -/

/-- CONV completes: OUT_COUNT is the number of whole raw samples, element i is raw sample i widened (8 bits:
zero-extended; 16 bits: by BE), no byte outside the output buffer changes, and no register but OUT_COUNT, BUSY and
DONE (40_conv.md rules R101 to R106, 60_exceptions.md rules R165, R166). -/
def Obligations.ConvCompletesWithWidenedSamples : Prop :=
  ∀ (s : State) (bps : BitVec 8) (be : Bool), bps = 8#8 ∨ bps = 16#8 →
    EngineReady s (convPlan bps be s.latched s.mem) →
      let l := s.latched
      let n := l.len.toNat / (bps.toNat / 8)
      ∃ t, exec (.conv bps be) s = .next t ∧ CompletedFrom s t n ∧
        (∀ i, i < n → readHalf t.mem (addrPlus l.dst0 (2 * i)) =
          if bps = 8#8 then (readByte s.mem (addrPlus l.src i)).setWidth 16
          else if be then readByte s.mem (addrPlus l.src (2 * i)) ++ readByte s.mem (addrPlus l.src (2 * i + 1))
          else readByte s.mem (addrPlus l.src (2 * i + 1)) ++ readByte s.mem (addrPlus l.src (2 * i))) ∧
        UnchangedOutside s t [{ base := l.dst0, len := 2 * n }]

/-- SPLIT8 completes: frame f of channel c is byte CH*f + c zero-extended, in the buffer of channel c; OUT_COUNT is the
number of whole frames; no byte outside the channel buffers changes, and no register but OUT_COUNT, BUSY and DONE
(41_split.md rules R120 to R123, 60_exceptions.md rules R165, R166). -/
def Obligations.Split8CompletesWithPlanarSamples : Prop :=
  ∀ (s : State) (ch : BitVec 16), ch = 1#16 ∨ ch = 2#16 →
    EngineReady s (split8Plan ch s.latched s.mem) →
      let l := s.latched
      let n := l.len.toNat / ch.toNat
      ∃ t, exec (.split8 ch) s = .next t ∧ CompletedFrom s t n ∧
        (∀ f c, f < n → c < ch.toNat → readHalf t.mem (addrPlus (if c = 0 then l.dst0 else l.dst1) (2 * f)) =
          (readByte s.mem (addrPlus l.src (ch.toNat * f + c))).setWidth 16) ∧
        UnchangedOutside s t
          (if ch = 1#16 then [{ base := l.dst0, len := 2 * n }]
           else [{ base := l.dst0, len := 2 * n }, { base := l.dst1, len := 2 * n }])

/-- SPLIT16 completes: frame f of channel c is the two bytes at 2*CH*f + 2*c put together by BE, in the buffer of
channel c; OUT_COUNT is the number of whole frames; no byte outside the channel buffers changes, and no register but
OUT_COUNT, BUSY and DONE (41_split.md rules R120, R125 to R129, 60_exceptions.md rules R165, R166). -/
def Obligations.Split16CompletesWithPlanarSamples : Prop :=
  ∀ (s : State) (ch : BitVec 16) (be : Bool), ch = 1#16 ∨ ch = 2#16 →
    EngineReady s (split16Plan ch be s.latched s.mem) →
      let l := s.latched
      let n := l.len.toNat / (2 * ch.toNat)
      ∃ t, exec (.split16 ch be) s = .next t ∧ CompletedFrom s t n ∧
        (∀ f c, f < n → c < ch.toNat →
          let b0 := readByte s.mem (addrPlus l.src (2 * ch.toNat * f + 2 * c))
          let b1 := readByte s.mem (addrPlus l.src (2 * ch.toNat * f + 2 * c + 1))
          readHalf t.mem (addrPlus (if c = 0 then l.dst0 else l.dst1) (2 * f)) = if be then b0 ++ b1 else b1 ++ b0) ∧
        UnchangedOutside s t
          (if ch = 1#16 then [{ base := l.dst0, len := 2 * n }]
           else [{ base := l.dst0, len := 2 * n }, { base := l.dst1, len := 2 * n }])

/-- FNORM completes: frame f of channel c is native sample CH*f + c divided by 32768, as binary32, at the address of
pointer-table entry c plus 4*f; OUT_COUNT is the number of whole frames; no byte outside the float buffers changes,
and no register but OUT_COUNT, BUSY and DONE (42_fnorm.md rules R141 to R146, 60_exceptions.md rules R165, R166). -/
def Obligations.FnormCompletesWithPlanarFloats : Prop :=
  ∀ (s : State) (ch : BitVec 16), ch ≠ 0#16 →
    EngineReady s (fnormPlan ch s.latched s.mem s.platform) →
      let l := s.latched
      let n := l.len.toNat / ch.toNat
      let ptr (c : Nat) : Addr := readWord s.mem (addrPlus l.dst0 (4 * c))
      ∃ t, exec (.fnorm ch) s = .next t ∧ CompletedFrom s t n ∧
        (∀ f c, f < n → c < ch.toNat →
          let pattern := readWord t.mem (addrPlus (ptr c) (4 * f))
          let v := (readHalf s.mem (addrPlus l.src (2 * (ch.toNat * f + c)))).toInt
          pattern = normFloat (readHalf s.mem (addrPlus l.src (2 * (ch.toNat * f + c)))) ∧
            floatValue pattern = (v : ℚ) / 32768) ∧
        UnchangedOutside s t ((List.range ch.toNat).map fun c => { base := ptr c, len := 4 * n })

/-- A command whose length holds no whole sample or frame completes with OUT_COUNT = 0 and no memory access, whatever
its addresses are and whether or not they respond (40_conv.md rule R101, 41_split.md rules R121, R125, 42_fnorm.md
rules R141, R143). -/
def Obligations.EmptyCommandsCompleteWithoutAccess : Prop :=
  ∀ (s : State), s.phase = .running →
    let len := s.latched.len.toNat
    let empty (i : Instr) : Prop := ∃ t, exec i s = .next t ∧ t.mem = s.mem ∧ CompletedFrom s t 0
    (∀ bps be, bps = 8#8 ∨ bps = 16#8 → len < bps.toNat / 8 → empty (.conv bps be)) ∧
    (∀ ch, ch = 1#16 ∨ ch = 2#16 → len < ch.toNat → empty (.split8 ch)) ∧
    (∀ ch be, ch = 1#16 ∨ ch = 2#16 → len < 2 * ch.toNat → empty (.split16 ch be)) ∧
    (∀ ch, len < ch.toNat → empty (.fnorm ch))

/-- The footprint of each command is the table of 20_memory.md rule R52, whichever bytes respond: the ranges the
engine comes to read and to write, those it leaves unwritten, and what the three cover together. It leaves ranges
unwritten only for FNORM: the buffers of the pointer-table entries that do not respond (60_exceptions.md rule R167).
Which entries count as read is the model's reading of log entry 8, and that the other buffers belong to the footprint
too, at the addresses that memory holds, is that of log entry 13. -/
def Obligations.FootprintsAreTheTable : Prop :=
  ∀ (l : Latched) (m : Memory) (pf : Platform),
    let len := l.len.toNat
    let touches (i : Instr) (reads writes : List Range) : Prop :=
      let p := planOf i l m pf
      p.reads = reads ∧ p.writes = writes ∧ p.unread = [] ∧ planFootprint p = reads ++ writes
    (∀ bps be, bps = 8#8 ∨ bps = 16#8 →
      let w := bps.toNat / 8
      let n := len / w
      touches (.conv bps be) [⟨l.src, w * n⟩] [⟨l.dst0, 2 * n⟩]) ∧
    touches (.split8 1#16) [⟨l.src, len⟩] [⟨l.dst0, 2 * len⟩] ∧
    touches (.split8 2#16) [⟨l.src, 2 * (len / 2)⟩] [⟨l.dst0, 2 * (len / 2)⟩, ⟨l.dst1, 2 * (len / 2)⟩] ∧
    (∀ be, touches (.split16 1#16 be) [⟨l.src, 2 * (len / 2)⟩] [⟨l.dst0, 2 * (len / 2)⟩]) ∧
    (∀ be, touches (.split16 2#16 be) [⟨l.src, 4 * (len / 4)⟩] [⟨l.dst0, 2 * (len / 4)⟩, ⟨l.dst1, 2 * (len / 4)⟩]) ∧
    ∀ ch, ch ≠ 0#16 →
      let f := len / ch.toNat
      let p := planOf (.fnorm ch) l m pf
      let source : Range := ⟨l.src, 2 * ch.toNat * f⟩
      let table : Range := ⟨l.dst0, 4 * ch.toNat⟩
      let buffer (c : Nat) : Range := ⟨readWord m (addrPlus l.dst0 (4 * c)), 4 * f⟩
      let answered (c : Nat) : Bool := (List.range 4).all fun k => responds pf (addrPlus l.dst0 (4 * c + k))
      (f = 0 → touches (.fnorm ch) [⟨l.src, 0⟩] []) ∧
      (0 < f →
        p.reads = [source, table] ∧
        p.writes = ((List.range ch.toNat).filter answered).map buffer ∧
        p.unread = ((List.range ch.toNat).filter fun c => !(answered c)).map buffer ∧
        (∀ a, ((planFootprint p).any fun r => rangeHas r a) = true ↔
          rangeHas source a = true ∨ rangeHas table a = true ∨ ∃ c < ch.toNat, rangeHas (buffer c) a = true) ∧
        ((∀ a, rangeHas table a = true → responds pf a = true) →
          touches (.fnorm ch) [source, table] ((List.range ch.toNat).map buffer)))

/-- Whatever command the engine completes, and however (successfully or with BusError), no byte outside the write
ranges of its footprint changes, and no register but STATUS, ERRVAL and OUT_COUNT (20_memory.md rule R53,
60_exceptions.md rules R165, R167). -/
def Obligations.EngineWritesOnlyItsWriteRanges : Prop :=
  ∀ (s t : State) (i : Instr), s.phase = .running → exec i s = .next t →
    UnchangedOutside s t (planOf i s.latched s.mem s.platform).writes ∧
      t = { s with
            mem := t.mem, phase := .idle, done := true, err := t.err, errcode := t.errcode, errval := t.errval
            outCount := t.outCount, unobserved := t.unobserved, hostDirty := t.hostDirty, hostStale := t.hostStale
            draws := t.draws }

/-- The engine's step on a byte that does not respond: BUS_ERROR, ERRVAL a byte of the footprint that does not
respond, OUT_COUNT 0, and each destination byte as a command cut short leaves it (60_exceptions.md rule R167). Which
bytes need no silent source, and FNORM's plan with a silent table, are the model's readings of log entries 7 and 8; that
P_MEM_RESPONDS is asked once, at this step, is its choice of log entry 22. The old value of a destination byte that the
host wrote through its cache and has not written back is the choice of log entry 25 (unsafe). -/
def Obligations.BusErrorCompletes : Prop :=
  ∀ (s : State) (i : Instr) (b : Addr), s.phase = .running →
    let p := planOf i s.latched s.mem s.platform
    InContract s p → planHas p b = true → responds s.platform b = false →
      ∃ t a, exec i s = .next t ∧ planHas p a = true ∧ responds s.platform a = false ∧ CutShort s t p ∧
        t = { s with
              err := true, errcode := .busError, errval := a, outCount := 0#32, phase := .idle, done := true
              mem := t.mem, unobserved := t.unobserved, hostDirty := t.hostDirty, hostStale := t.hostStale
              draws := t.draws }

/-- FNORM whose pointer table does not respond somewhere ends in BUS_ERROR and writes no float
(60_exceptions.md rule R167). -/
def Obligations.FnormTableFaultWritesNothing : Prop :=
  ∀ (s : State) (ch : BitVec 16) (b : Addr), s.phase = .running → 0 < s.latched.len.toNat / ch.toNat →
    InContract s (fnormPlan ch s.latched s.mem s.platform) →
    rangeHas { base := s.latched.dst0, len := 4 * ch.toNat } b = true → responds s.platform b = false →
      ∃ t, exec (.fnorm ch) s = .next t ∧ t.err = true ∧ t.errcode = .busError ∧ t.mem = s.mem

/-- A command one of whose write ranges meets one of its read ranges is refused: in-place conversion is outside the
contract (20_memory.md rule R68). That it happens at the engine's step, and before the device, the cache and the
BusError checks, is the model's choice of log entry 9. -/
def Obligations.OverlappingFootprintIsRefused : Prop :=
  ∀ (s : State) (i : Instr) (a : Addr), s.phase = .running →
    planReads (planOf i s.latched s.mem s.platform) a = true →
    planWrites (planOf i s.latched s.mem s.platform) a = true →
    (∀ b, planHas (planOf i s.latched s.mem s.platform) b = true → rangeHas (windowRange s.platform) b = false) →
      exec i s = .refused .illFormedFootprint

/-- The engine's step on any command answers a next state exactly where the command is inside the contract, and
otherwise refuses: nothing else stops it (20_memory.md rules R50, R59, R67, R68; the model's choices of log entries 9,
10 and 14, and for FNORM with a silent table of 8). -/
def Obligations.EngineRefusesExactlyOutsideTheContract : Prop :=
  ∀ (s : State) (i : Instr), s.phase = .running →
    ((∃ t, exec i s = .next t) ↔ InContract s (planOf i s.latched s.mem s.platform)) ∧
    ((∃ r, exec i s = .refused r) ↔ ¬ InContract s (planOf i s.latched s.mem s.platform))

/-- SPLIT8 and SPLIT16 with CH = 1 do not depend on DST1_ADDR: with another value in L the same happens
(41_split.md rule R132). Where the command ends in BUS_ERROR, that both runs draw the same ERRVAL and the same
destination bytes is the model's choice of log entry 6 (unsafe for this claim), not the rule's. -/
def Obligations.MonoSplitIgnoresDst1 : Prop :=
  ∀ (s : State) (be : Bool) (x : Word), s.phase = .running →
    let other (u : State) : State := { u with latched := { u.latched with dst1 := x } }
    let same (i : Instr) : Prop :=
      (∀ t, exec i s = .next t → exec i (other s) = .next (other t)) ∧
        ∀ r, exec i s = .refused r → exec i (other s) = .refused r
    same (.split8 1#16) ∧ same (.split16 1#16 be)

/-- While BUSY = 1 the engine reads L, never the live parameter registers, CMD or IRQ_EN: with other values there the
same happens, and they stay (10_state.md rule R42, 70_reset_and_hazards.md rule R201). Where the command ends in
BUS_ERROR, that both runs draw the same ERRVAL and the same destination bytes is the model's choice of log entry 6
(unsafe for this claim), not these rules'. -/
def Obligations.RunningCommandIgnoresLiveRegisters : Prop :=
  ∀ (s : State) (i : Instr) (cmd src len dst0 dst1 : Word) (ie : Bool), s.phase = .running →
    let other (u : State) : State :=
      { u with cmd := cmd, srcAddr := src, srcLen := len, dst0Addr := dst0, dst1Addr := dst1, doneIe := ie }
    (∀ t, exec i s = .next t → exec i (other s) = .next (other t)) ∧
      ∀ r, exec i s = .refused r → exec i (other s) = .refused r

/-- A successful command is a pure function: two machines with the same L, whose memories agree on the
bytes the command reads, end with the same destination bytes and the same OUT_COUNT, whatever else differs, the
platform included (00_scope.md rule R19). -/
def Obligations.DestinationsDependOnlyOnSources : Prop :=
  ∀ (s u : State) (i : Instr), i.wellFormed = true → s.latched = u.latched →
    EngineReady s (planOf i s.latched s.mem s.platform) → EngineReady u (planOf i u.latched u.mem u.platform) →
    (∀ a, planReads (planOf i s.latched s.mem s.platform) a = true → readByte s.mem a = readByte u.mem a) →
      ∃ t v, exec i s = .next t ∧ exec i u = .next v ∧ t.outCount = v.outCount ∧
        ∀ a, planWrites (planOf i s.latched s.mem s.platform) a = true → readByte t.mem a = readByte v.mem a

/-- The fused path equals CONV followed by a de-interleave: element f of channel c of a split is element CH*f + c of
what CONV makes of the same bytes, and the split has floor(n / CH) frames (41_split.md rule R130). -/
def Obligations.SplitEqualsConvThenDeinterleave : Prop :=
  ∀ (s u : State) (ch : BitVec 16) (be : Bool), ch = 1#16 ∨ ch = 2#16 → s.mem = u.mem →
    s.latched.src = u.latched.src → s.latched.len = u.latched.len →
    let fused (conv split : Instr) : Prop :=
      EngineReady s (planOf conv s.latched s.mem s.platform) →
      EngineReady u (planOf split u.latched u.mem u.platform) →
        ∃ t v, exec conv s = .next t ∧ exec split u = .next v ∧
          v.outCount.toNat = t.outCount.toNat / ch.toNat ∧
          ∀ f c, f < v.outCount.toNat → c < ch.toNat →
            readHalf v.mem (addrPlus (if c = 0 then u.latched.dst0 else u.latched.dst1) (2 * f)) =
              readHalf t.mem (addrPlus s.latched.dst0 (2 * (ch.toNat * f + c)))
    fused (.conv 8#8 be) (.split8 ch) ∧ fused (.conv 16#8 be) (.split16 ch be)

/-- Endianness round trip: CONV with the byte order the bytes were written in gives the native samples back
(40_conv.md rule R107). -/
def Obligations.EndiannessRoundTrip : Prop :=
  ∀ (s : State) (be : Bool) (n : Nat) (v : Nat → Half),
    EngineReady s (convPlan 16#8 be s.latched s.mem) → s.latched.len.toNat = 2 * n →
    (∀ i, i < n →
      readByte s.mem (addrPlus s.latched.src (2 * i)) = (if be then (v i).extractLsb' 8 8 else (v i).extractLsb' 0 8) ∧
      readByte s.mem (addrPlus s.latched.src (2 * i + 1)) =
        (if be then (v i).extractLsb' 0 8 else (v i).extractLsb' 8 8)) →
      ∃ t, exec (.conv 16#8 be) s = .next t ∧ t.outCount.toNat = n ∧
        ∀ i, i < n → readHalf t.mem (addrPlus s.latched.dst0 (2 * i)) = v i

/-- In the state right after a completion the command's footprint is guarded: another agent's write there is refused
(70_reset_and_hazards.md rule R199; how the model tells is log entry 13). -/
def Obligations.CompletedFootprintIsGuarded : Prop :=
  ∀ (s t : State) (i : Instr) (a : Addr), s.phase = .running → exec i s = .next t →
    ((planFootprint (planOf i s.latched s.mem s.platform)).any fun r => rangeHas r a) = true → t.guarded a = true

/-- A guarded byte stays guarded by every step but an observation of DONE = 1 (a STATUS read, a WAIT or a sample of `irq`
that shows it) and the assertion of reset (70_reset_and_hazards.md rule R199; how the model tells is log entry 13, and
that reset ends it is log entry 15). -/
def Obligations.GuardedByteStaysGuardedUntilObserved : Prop :=
  ∀ (s t : State) (a : Addr), s.guarded a = true → step s = .next t →
    t.guarded a = true ∨
    (s.done = true ∧ ∃ rest, s.inputs = .regRead statusOffset 4 :: rest ∨ s.inputs = .waitDone :: rest ∨
      (s.doneIe = true ∧ s.inputs = .sampleIrq :: rest)) ∨
    ∃ rest, s.inputs = .assertReset :: rest

/-! Floats -/

/-- The pattern FNORM writes for a native sample stands for exactly that sample divided by 32768; it is +0 for 0 and
otherwise a normal number with the closed form of 42_fnorm.md rule R142. -/
def Obligations.NormFloatIsExact : Prop :=
  ∀ u : Half,
    floatValue (normFloat u) = (u.toInt : ℚ) / 32768 ∧
    (u.toInt = 0 → normFloat u = 0#32) ∧
    (u.toInt ≠ 0 → ∃ k ≤ 15, 2 ^ k ≤ u.toInt.natAbs ∧ u.toInt.natAbs < 2 ^ (k + 1) ∧
      (normFloat u).getLsbD 31 = decide (u.toInt < 0) ∧
      ((normFloat u).extractLsb' 23 8).toNat = k + 112 ∧
      ((normFloat u).extractLsb' 0 23).toNat = (u.toInt.natAbs - 2 ^ k) * 2 ^ (23 - k))

/-- FNORM's results lie in [-1, 32767/32768] and keep the order of the samples (42_fnorm.md rules R144, R148). -/
def Obligations.NormFloatRangeAndOrder : Prop :=
  ∀ u v : Half,
    -1 ≤ floatValue (normFloat u) ∧ floatValue (normFloat u) ≤ 32767 / 32768 ∧
      (u.toInt < v.toInt → floatValue (normFloat u) < floatValue (normFloat v))

/-- The table of float patterns of 42_fnorm.md rule R149. -/
def Obligations.FloatPatternsOfTheTable : Prop :=
  ([0, 1, -1, 2, -2, 3, 4, 5, 6, 7, 127, 128, 200, 255, 4660, 13330, 16384, -16384, 32767, -32767, -32768] : List Int).map
      (fun v => normFloat (BitVec.ofInt 16 v)) =
    [0x00000000#32, 0x38000000#32, 0xB8000000#32, 0x38800000#32, 0xB8800000#32, 0x38C00000#32, 0x39000000#32,
     0x39200000#32, 0x39400000#32, 0x39600000#32, 0x3B7E0000#32, 0x3B800000#32, 0x3BC80000#32, 0x3BFF0000#32,
     0x3E11A000#32, 0x3ED04800#32, 0x3F000000#32, 0xBF000000#32, 0x3F7FFE00#32, 0xBF7FFE00#32, 0xBF800000#32]

/-! The register window -/

/-- What each offset of the window reads as (10_state.md rules R22, R23, R38). -/
def Obligations.RegisterMapReads : Prop :=
  ∀ s : State,
    s.readReg 0x00#6 = 0x50434D07#32 ∧ s.readReg 0x04#6 = s.cmd ∧ s.readReg 0x08#6 = s.statusWord ∧
    s.readReg 0x0C#6 = s.errval ∧ s.readReg 0x10#6 = s.srcAddr ∧ s.readReg 0x14#6 = s.srcLen ∧
    s.readReg 0x18#6 = s.dst0Addr ∧ s.readReg 0x1C#6 = s.dst1Addr ∧ s.readReg 0x20#6 = s.outCount ∧
    s.readReg 0x24#6 = (if s.doneIe then 1#32 else 0#32) ∧
    ∀ off : BitVec 6, 0x28 ≤ off.toNat → s.readReg off = 0#32

/-- The layout of STATUS: BUSY, DONE, ERR, OVR in bits 0 to 3, the code of the error in bits 7 to 4, and 0 above; the
codes are those of the table of 60_exceptions.md rule R160, never a reserved one (10_state.md rules R25, R30, R43). -/
def Obligations.StatusLayout : Prop :=
  ∀ s : State,
    s.statusWord.getLsbD 0 = decide (s.phase = .running) ∧ s.statusWord.getLsbD 1 = s.done ∧
    s.statusWord.getLsbD 2 = s.err ∧ s.statusWord.getLsbD 3 = s.ovr ∧
    s.statusWord.extractLsb' 4 4 = s.errcode.number ∧ s.errcode.number.toNat ≤ 4 ∧
    ErrCode.noError.number = 0#4 ∧ ErrCode.unsupportedFormat.number = 1#4 ∧ ErrCode.zeroChannels.number = 2#4 ∧
    ErrCode.illegalOp.number = 3#4 ∧ ErrCode.busError.number = 4#4 ∧
    s.statusWord.extractLsb' 8 24 = 0#24

/-- A step that serves an aligned 32-bit register write, outside CMD: the parameter registers take all 32 bits,
IRQ_EN takes bit 0, STATUS clears DONE and OVR where the bit is 1, every other offset ignores it; nothing else
changes (10_state.md rules R25, R27, R29, R32 to R35, R37, R38, R40). -/
def Obligations.RegisterWritesChangeOneRegister : Prop :=
  ∀ (s : State) (off : BitVec 6) (v : Word) (rest : List Input),
    s.inputs = .regWrite off 4 v :: rest → s.resetLine = false → off.toNat % 4 = 0 → off ≠ 0x04#6 →
      let s0 : State := { s with inputs := rest }
      step s = .next (
        if off = 0x08#6 then { s0 with done := s.done && !(v.getLsbD 1), ovr := s.ovr && !(v.getLsbD 3) }
        else if off = 0x10#6 then { s0 with srcAddr := v }
        else if off = 0x14#6 then { s0 with srcLen := v }
        else if off = 0x18#6 then { s0 with dst0Addr := v }
        else if off = 0x1C#6 then { s0 with dst1Addr := v }
        else if off = 0x24#6 then { s0 with doneIe := v.getLsbD 0 }
        else s0)

/-- A step that serves an aligned 32-bit register read returns the register and has no side effect on PCMC; a STATUS
read that returns DONE = 1 lets the host see every completed command's writes (10_state.md rule R39, 20_memory.md rule
R63; the model's fields are those of log entries 12 and 13). -/
def Obligations.RegisterReadsHaveNoSideEffects : Prop :=
  ∀ (s : State) (off : BitVec 6) (rest : List Input),
    s.inputs = .regRead off 4 :: rest → s.resetLine = false → off.toNat % 4 = 0 →
      step s = .next { s with
        inputs := rest, readData := some (s.readReg off)
        unobserved := if off = 0x08#6 ∧ s.done = true then [] else s.unobserved }

/-- A register access that is not 32 bits wide, or not at a multiple of 4, is refused (10_state.md rule R39). -/
def Obligations.OtherRegisterAccessesAreRefused : Prop :=
  ∀ (s : State) (off : BitVec 6) (bytes : Nat) (v : Word) (rest : List Input),
    s.resetLine = false → bytes ≠ 4 ∨ off.toNat % 4 ≠ 0 →
      (s.inputs = .regWrite off bytes v :: rest → step s = .refused .registerAccess) ∧
      (s.inputs = .regRead off bytes :: rest → step s = .refused .registerAccess)

/-- The interrupt line: DONE and DONE_IE; an acknowledgement, masking and acceptance deassert it, and unmasking while
DONE = 1 asserts it (10_state.md rule R41, 60_exceptions.md rule R172). -/
def Obligations.InterruptFollowsDoneAndEnable : Prop :=
  ∀ (s : State) (v : Word),
    s.irq = (s.done && s.doneIe) ∧
    (v.getLsbD 1 = true → (s.writeReg statusOffset v).irq = false) ∧
    (v.getLsbD 0 = false → (s.writeReg 0x24#6 v).irq = false ∧ (s.writeReg 0x24#6 v).done = s.done) ∧
    (s.done = true → v.getLsbD 0 = true → (s.writeReg 0x24#6 v).irq = true) ∧
    (s.phase = .idle → ∀ i : Instr, i.wellFormed = true → ∃ t, exec i s = .next t ∧ t.irq = false)

/-! Reset -/

/-- The reset state holds the values of the table of 70_reset_and_hazards.md rule R191. -/
def Obligations.ResetValuesOfTheTable : Prop :=
  (List.range 10).map (fun k => State.reset.readReg (BitVec.ofNat 6 (4 * k))) =
      [0x50434D07#32, 0#32, 0#32, 0#32, 0#32, 0#32, 0#32, 0#32, 0#32, 0#32] ∧
    State.reset.phase = .idle ∧ State.reset.done = false ∧ State.reset.err = false ∧ State.reset.ovr = false ∧
    State.reset.errcode = .noError ∧ State.reset.doneIe = false ∧ State.reset.irq = false

/-- Asserting reset sets every register to its reset value and the engine to IDLE, without DONE or an interrupt; while
no command runs, memory stays (70_reset_and_hazards.md rules R191, R193; that it happens at assertion is log entry 15).
-/
def Obligations.ResetAssertionSetsRegisters : Prop :=
  ∀ (s : State) (rest : List Input), s.inputs = .assertReset :: rest → s.phase = .idle →
    ∃ t, step s = .next t ∧ t.mem = s.mem ∧ t.resetLine = true ∧ t.phase = .idle ∧ t.irq = false ∧
      (∀ off, t.readReg off = State.reset.readReg off) ∧ t.platform = s.platform ∧ t.inputs = rest

/-- Reset while a command runs abandons it: no DONE, no interrupt, the registers at their reset values, each
destination byte whose final value needs no silent byte old or final, and every one where the sources of a legal
command respond (70_reset_and_hazards.md rule R192; that it happens at assertion, and that a byte whose final value
needs a silent one may hold anything, is log entry 15 with log entry 7; that P_MEM_RESPONDS is asked at this moment is
log entry 22). The old value of a destination byte that the host wrote through its cache and has not written back is
the model's choice of log entry 25 (unsafe). -/
def Obligations.ResetAbandonsRunningCommand : Prop :=
  ∀ (s : State) (rest : List Input), s.inputs = .assertReset :: rest → s.phase = .running →
    InContract s s.runningPlan →
      ∃ t, step s = .next t ∧ t.phase = .idle ∧ t.done = false ∧ t.irq = false ∧ t.resetLine = true ∧
        (∀ off, t.readReg off = State.reset.readReg off) ∧ CutShort s t s.runningPlan ∧
        ((latchedInstr s.latched).wellFormed = true →
          (∀ b, planReads s.runningPlan b = true → responds s.platform b = true) →
          ∀ a, readByte t.mem a = readByte s.mem a ∨
            ∃ st ∈ s.runningPlan.stores, st.addr = a ∧ readByte t.mem a = st.val)

/-- While reset is asserted register accesses are ignored and the engine makes no access (70_reset_and_hazards.md rule
R190; that a read returns none is log entry 12). Release changes nothing else: the model sets the registers at assertion
and holds them (log entry 15). -/
def Obligations.AssertedResetIgnoresAccesses : Prop :=
  ∀ (s : State) (rest : List Input), s.resetLine = true →
    (∀ off bytes v, s.inputs = .regWrite off bytes v :: rest → step s = .next { s with inputs := rest }) ∧
    (∀ off bytes, s.inputs = .regRead off bytes :: rest → step s = .next { s with inputs := rest, readData := none }) ∧
    (s.inputs = .engine :: rest → step s = .next { s with inputs := rest }) ∧
    (s.inputs = [] → step s = .next s) ∧
    (s.inputs = .releaseReset :: rest → step s = .next { s with inputs := rest, resetLine := false })

/-- When reset is released, PCMC is in the reset state: the engine IDLE, every register at its reset value, no interrupt,
memory as it was (70_reset_and_hazards.md rules R190, R191, R193; the states that reach this are those of the invariant,
which holds the registers at their reset values from assertion on, log entry 15). -/
def Obligations.ReleasedMachineIsInTheResetState : Prop :=
  ∀ (s : State) (rest : List Input), s.Inv → s.resetLine = true → s.inputs = .releaseReset :: rest →
    ∃ t, step s = .next t ∧ t.resetLine = false ∧ t.phase = .idle ∧ t.irq = false ∧ t.mem = s.mem ∧
      ∀ off, t.readReg off = State.reset.readReg off

/-! The host and system memory -/

/-- Another agent's write of a byte that no unobserved command's footprint covers, outside the window, is in memory
after the step, and no other byte changes; a write into such a footprint is refused (20_memory.md rules R51, R63,
70_reset_and_hazards.md rule R199; how the model tells is log entry 13). That the write lands also where the byte does
not respond (log entry 16), is a device's (11) or is written through a cache without coherence (14, 24) is the model's
choice. -/
def Obligations.HostWritesAreSeenOrRefused : Prop :=
  ∀ (s : State) (a : Addr) (b : Byte) (rest : List Input),
    s.inputs = .memWrite a b :: rest → rangeHas (windowRange s.platform) a = false →
      (s.guarded a = false → ∃ t, step s = .next t ∧
        (∀ x, readByte t.mem x = if x = a then b else readByte s.mem x) ∧
        t = { s with inputs := rest, mem := t.mem, hostDirty := t.hostDirty }) ∧
      (s.guarded a = true → step s = .refused .footprintTouched)

/-- A host read of a byte that is not marked as one of which the host holds an old cached copy, while the engine is
IDLE, or runs a legal command that is inside the contract and whose footprint responds, returns what memory holds,
what the byte held before a completed command whose DONE is not observed, or the running command's final value
(20_memory.md rule R63; the draw is that of log entries 6 and 13, and without coherence of 26). Which bytes are marked
is log entry 14, and a read of a marked one is refused (MissingCacheMaintenanceIsRefused). That the read completes
also where the byte does not respond (log entry 16) or is a device's (11), that it returns memory for a byte another
agent wrote while the host held a copy of it (24, unsafe for this claim), and that the old value of a destination byte
the host wrote through its cache without write-back is the host's (25, unsafe) are the model's choices. -/
def Obligations.HostReadBeforeDoneIsOldOrFinal : Prop :=
  ∀ (s : State) (a : Addr) (rest : List Input),
    s.inputs = .memRead a :: rest →
    s.phase = .idle ∨ ((latchedInstr s.latched).wellFormed = true ∧ EngineReady s s.runningPlan) →
    rangeHas (windowRange s.platform) a = false → a ∉ s.hostStale →
      ∃ t v, step s = .next t ∧ t = { s with inputs := rest, readData := some (v.setWidth 32), draws := t.draws } ∧
        (v = readByte s.mem a ∨ (∃ f ∈ s.unobserved, (a.toNat, v) ∈ f.old) ∨
          (s.phase = .running ∧ ∃ st ∈ s.runningPlan.stores, st.addr = a ∧ v = st.val))

/-- Once DONE = 1 has been observed, with no command running, a host read of a byte that is not marked as one of which
the host holds an old cached copy returns what memory holds (20_memory.md rules R63, R67). What counts as observed is
log entry 13, and which bytes are marked is log entry 14. That the read completes where the byte does not respond (log
entry 16) or is a device's (11), that it returns memory for a byte another agent wrote while the host held a copy of
it, which is never marked (24, unsafe for this claim), and what memory holds of a destination byte that the host wrote
through its cache without write-back (25, unsafe): the model's choices. -/
def Obligations.HostReadAfterObservedDoneIsMemory : Prop :=
  ∀ (s : State) (a : Addr) (rest : List Input),
    s.inputs = .memRead a :: rest → s.phase = .idle → s.unobserved = [] →
    rangeHas (windowRange s.platform) a = false → a ∉ s.hostStale →
      ∃ t, step s = .next t ∧
        t = { s with inputs := rest, readData := some ((readByte s.mem a).setWidth 32), draws := t.draws }

/-- Without coherence, the engine's step on a source byte the host has not written back is refused, and so is a host
read of a byte whose old copy it has not invalidated (20_memory.md rule R67; the marks are those of log entry 14). -/
def Obligations.MissingCacheMaintenanceIsRefused : Prop :=
  (∀ (s : State) (i : Instr) (a : Addr), s.phase = .running → s.platform.coherent = false → a ∈ s.hostDirty →
    planReads (planOf i s.latched s.mem s.platform) a = true → ∀ t, exec i s ≠ .next t) ∧
  (∀ (s : State) (a : Addr) (rest : List Input), s.inputs = .memRead a :: rest →
    rangeHas (windowRange s.platform) a = false → a ∈ s.hostStale → step s = .refused .cacheNotMaintained)

/-! The whole machine -/

/-- The reset state has the invariant. -/
def Obligations.ResetHasTheInvariant : Prop := State.reset.Inv

/-- Every step keeps the invariant: memory canonical, the record clear while a command runs, L the command in CMD and
legal, ERR and ERRCODE together, ERRVAL and OUT_COUNT 0 where the spec says so, and while reset is asserted the engine
IDLE and every register at its reset value (70_reset_and_hazards.md rules R190, R191; that they are set at assertion is
the model's choice of log entry 15). -/
def Obligations.EveryStepKeepsTheInvariant : Prop :=
  ∀ s t : State, s.Inv → step s = .next t → t.Inv

/-- BUSY becomes 1 only by a CMD write of a command with legal operands, and 0 only by a completion, which sets DONE,
or by reset (10_state.md rule R26). -/
def Obligations.BusyChangesOnlyByAcceptanceAndCompletion : Prop :=
  ∀ s t : State, step s = .next t →
    (s.phase = .idle → t.phase = .running →
      ∃ v rest i, s.inputs = .regWrite cmdOffset 4 v :: rest ∧ s.resetLine = false ∧ decode v = .ok i ∧
        i.wellFormed = true ∧ t.cmd = v ∧ latchedInstr t.latched = i) ∧
    (s.phase = .running → t.phase = .idle → t.done = true ∨ t.resetLine = true)

/-- OVR becomes 1 only by a CMD write while BUSY = 1, and 0 only by a STATUS write with bit 3 set or by reset
(10_state.md rule R29). -/
def Obligations.OvrChangesOnlyByOverrunAndAcknowledgement : Prop :=
  ∀ s t : State, step s = .next t →
    (s.ovr = false → t.ovr = true →
      s.phase = .running ∧ s.resetLine = false ∧ ∃ v rest, s.inputs = .regWrite cmdOffset 4 v :: rest) ∧
    (s.ovr = true → t.ovr = false →
      (∃ v rest, s.inputs = .regWrite statusOffset 4 v :: rest ∧ v.getLsbD 3 = true) ∨
        ∃ rest, s.inputs = .assertReset :: rest)

/-- A byte of system memory changes only inside the write ranges of the running command, or by another agent's write
of that byte outside every guarded footprint (20_memory.md rules R51, R53, R63, 70_reset_and_hazards.md rule R199;
what is guarded is log entry 13). That a write through a cache without coherence is in memory at once (log entry 25),
and that no cache line is evicted over other bytes (14), are the model's choices (unsafe). -/
def Obligations.MemoryChangesOnlyByEngineOrHostWrite : Prop :=
  ∀ (s t : State) (a : Addr), step s = .next t → readByte t.mem a ≠ readByte s.mem a →
    (s.phase = .running ∧ planWrites s.runningPlan a = true) ∨
      ∃ b rest, s.inputs = .memWrite a b :: rest ∧ s.guarded a = false

/-- The parameter registers and IRQ_EN change only by a write of their own register or by reset
(10_state.md rules R20, R32 to R35, R37). -/
def Obligations.ParametersChangeOnlyByTheirWrites : Prop :=
  ∀ s t : State, step s = .next t → t.resetLine = false →
    let written (off : BitVec 6) : Prop := ∃ v rest, s.inputs = .regWrite off 4 v :: rest
    (t.srcAddr ≠ s.srcAddr → written 0x10#6) ∧ (t.srcLen ≠ s.srcLen → written 0x14#6) ∧
      (t.dst0Addr ≠ s.dst0Addr → written 0x18#6) ∧ (t.dst1Addr ≠ s.dst1Addr → written 0x1C#6) ∧
      (t.doneIe ≠ s.doneIe → written 0x24#6)
end

