-- ==== Sys2Proof/Laws/Memory.lean ====
section
/-! SUPPORT. Memory: a read after a write, the frame of a write, the canonical form, and address ranges. -/

namespace Sys2Proof.Machine

open Sys2Proof

/-! Lookup -/

theorem memLookup_memErase (m : Memory) (k j : Nat) :
    memLookup (memErase m k) j = if j = k then Config.blankByte else memLookup m j := by
  induction m with
  | nil => simp [memErase, memLookup]
  | cons c m ih =>
    unfold memErase at ih ⊢
    by_cases hc : c.1 = k
    · rw [List.filter_cons_of_neg (by simp [hc]), ih]
      by_cases hj : j = k
      · simp [hj]
      · simp [hj, memLookup, hc, Ne.symm hj]
    · rw [List.filter_cons_of_pos (by simp [hc])]
      by_cases hcj : c.1 = j
      · have hj : ¬ j = k := hcj ▸ hc
        simp [memLookup, hcj, hj]
      · simp [memLookup, hcj, ih]

theorem memLookup_memInsert (m : Memory) (k j : Nat) (v : Byte) (h : ∀ c ∈ m, c.1 ≠ k) :
    memLookup (memInsert m k v) j = if j = k then v else memLookup m j := by
  induction m with
  | nil => simp [memInsert, memLookup, eq_comm]
  | cons c m ih =>
    have hc : c.1 ≠ k := h c (by simp)
    have ih' := ih fun d hd => h d (by simp [hd])
    by_cases hlt : k < c.1
    · simp [memInsert, hlt, memLookup, eq_comm]
    · by_cases hcj : c.1 = j
      · have hj : ¬ j = k := hcj ▸ hc
        rw [memInsert, if_neg hlt]
        simp [memLookup, hcj, hj]
      · rw [memInsert, if_neg hlt]
        simp [memLookup, hcj, ih']

theorem memErase_ne (m : Memory) (k : Nat) : ∀ c ∈ memErase m k, c.1 ≠ k := by
  simp [memErase]

/-- A write seen through the read of one byte: the byte written, and no other. -/
theorem readByte_writeByte (m : Memory) (a b : Addr) (v : Byte) :
    readByte (writeByte m a v) b = if b = a then v else readByte m b := by
  unfold readByte writeByte
  split
  · next h => simp [memLookup_memErase, BitVec.toNat_inj, h]
  · rw [memLookup_memInsert _ _ _ _ (memErase_ne m _), memLookup_memErase]
    by_cases hb : b = a <;> simp [hb, BitVec.toNat_inj]

@[simp] theorem readByte_writeByte_same (m : Memory) (a : Addr) (v : Byte) : readByte (writeByte m a v) a = v := by
  simp [readByte_writeByte]

theorem readByte_writeByte_ne (m : Memory) {a b : Addr} (v : Byte) (h : b ≠ a) :
    readByte (writeByte m a v) b = readByte m b := by
  simp [readByte_writeByte, h]

/-! The canonical form -/

theorem mem_memInsert {m : Memory} {k : Nat} {v : Byte} {c : Host.Cell} :
    c ∈ memInsert m k v ↔ c = (k, v) ∨ c ∈ m := by
  induction m with
  | nil => simp [memInsert]
  | cons d m ih =>
    by_cases hlt : k < d.1
    · simp [memInsert, hlt]
    · simp [memInsert, hlt, ih]; tauto

theorem memErase_wf {m : Memory} (h : Memory.wf m) (k : Nat) : Memory.wf (memErase m k) :=
  ⟨h.1.filter _, fun c hc => h.2 c (List.mem_of_mem_filter hc)⟩

theorem memInsert_sorted {m : Memory} {k : Nat} {v : Byte} (h : m.Pairwise fun a b => a.1 < b.1)
    (hk : ∀ c ∈ m, c.1 ≠ k) : (memInsert m k v).Pairwise fun a b => a.1 < b.1 := by
  induction m with
  | nil => simp [memInsert]
  | cons d m ih =>
    have hd := List.pairwise_cons.1 h
    by_cases hlt : k < d.1
    · rw [memInsert, if_pos hlt]
      refine List.pairwise_cons.2 ⟨fun c hc => ?_, h⟩
      rcases List.mem_cons.1 hc with rfl | hc
      · exact hlt
      · exact hlt.trans (hd.1 c hc)
    · have hdk : d.1 ≠ k := hk d (by simp)
      rw [memInsert, if_neg hlt]
      refine List.pairwise_cons.2 ⟨fun c hc => ?_, ih hd.2 fun c hc => hk c (by simp [hc])⟩
      rcases mem_memInsert.1 hc with rfl | hc
      · show d.1 < k
        omega
      · exact hd.1 c hc

/-- A write keeps the canonical form. -/
theorem writeByte_wf {m : Memory} (h : Memory.wf m) (a : Addr) (v : Byte) : Memory.wf (writeByte m a v) := by
  unfold writeByte
  split
  · exact memErase_wf h _
  · next hv =>
    have he := memErase_wf h a.toNat
    refine ⟨memInsert_sorted he.1 (memErase_ne m _), fun c hc => ?_⟩
    rcases mem_memInsert.1 hc with rfl | hc
    · exact ⟨a.isLt, hv⟩
    · exact he.2 c hc

theorem applyStores_wf (sts : List Store) {m : Memory} (h : Memory.wf m) : Memory.wf (applyStores sts m) := by
  induction sts generalizing m with
  | nil => exact h
  | cons st sts ih => exact ih (writeByte_wf h _ _)

theorem scatterStores_wf (pf : Platform) (k : Nat) (sts : List Store) {m : Memory} (h : Memory.wf m) :
    Memory.wf (scatterStores pf k sts m) := by
  induction sts generalizing m k with
  | nil => exact h
  | cons st sts ih => exact ih _ (writeByte_wf h _ _)

/-- The reset memory has the canonical form. -/
theorem reset_mem_wf : Memory.wf State.reset.mem := by decide

/-! Stores -/

/-- A byte that no store names keeps its value. -/
theorem readByte_applyStores_frame (sts : List Store) (m : Memory) (a : Addr) (h : ∀ st ∈ sts, st.addr ≠ a) :
    readByte (applyStores sts m) a = readByte m a := by
  induction sts generalizing m with
  | nil => rfl
  | cons st sts ih =>
    rw [applyStores, ih _ fun x hx => h x (by simp [hx])]
    exact readByte_writeByte_ne m _ (Ne.symm (h st (by simp)))

/-- Where no two stores name one byte, a stored byte has the value of its store. -/
theorem readByte_applyStores_mem (sts : List Store) (m : Memory) (hd : (sts.map (·.addr)).Nodup) {st : Store}
    (h : st ∈ sts) : readByte (applyStores sts m) st.addr = st.val := by
  induction sts generalizing m with
  | nil => simp at h
  | cons x sts ih =>
    rw [List.map_cons, List.nodup_cons] at hd
    rcases List.mem_cons.1 h with rfl | h
    · rw [applyStores, readByte_applyStores_frame sts _ _ fun y hy hya => hd.1 (List.mem_map.2 ⟨y, hy, hya⟩)]
      exact readByte_writeByte_same m _ _
    · exact ih _ hd.2 h

/-- A byte that no store names keeps its value when a command is cut short. -/
theorem readByte_scatterStores_frame (pf : Platform) (k : Nat) (sts : List Store) (m : Memory) (a : Addr)
    (h : ∀ st ∈ sts, st.addr ≠ a) : readByte (scatterStores pf k sts m) a = readByte m a := by
  induction sts generalizing m k with
  | nil => rfl
  | cons st sts ih =>
    rw [scatterStores, ih _ _ fun x hx => h x (by simp [hx])]
    exact readByte_writeByte_ne m _ (Ne.symm (h st (by simp)))

/-- Where no two stores name one byte, a byte of a command cut short is drawn from its store and its old value. -/
theorem readByte_scatterStores_mem (pf : Platform) (k : Nat) (sts : List Store) (m : Memory)
    (hd : (sts.map (·.addr)).Nodup) {st : Store} (h : st ∈ sts) :
    ∃ j, readByte (scatterStores pf k sts m) st.addr = drawnByte pf j st (readByte m st.addr) := by
  induction sts generalizing m k with
  | nil => simp at h
  | cons x sts ih =>
    rw [List.map_cons, List.nodup_cons] at hd
    rcases List.mem_cons.1 h with rfl | h
    · refine ⟨k, ?_⟩
      rw [scatterStores,
        readByte_scatterStores_frame pf _ sts _ _ fun y hy hya => hd.1 (List.mem_map.2 ⟨y, hy, hya⟩)]
      exact readByte_writeByte_same m _ _
    · obtain ⟨j, hj⟩ := ih (k + 1) (writeByte m x.addr (drawnByte pf k x (readByte m x.addr))) hd.2 h
      refine ⟨j, ?_⟩
      rw [scatterStores, hj, readByte_writeByte_ne]
      exact fun he => hd.1 (List.mem_map.2 ⟨st, h, he⟩)

/-- What a byte that responds where it should can be drawn as: its old value or its final one. -/
theorem drawnByte_cases (pf : Platform) (k : Nat) (st : Store) (old : Byte)
    (h : ∀ a ∈ st.takenFrom, responds pf a = true) : drawnByte pf k st old = old ∨ drawnByte pf k st old = st.val := by
  unfold drawnByte
  rw [if_neg (by simpa using h)]
  split <;> simp

/-- The one candidate is taken where there is one, and some candidate always is. -/
theorem pickOne_mem {α : Type} (k : Nat) (v : α) (vs : List α) : pickOne k v vs ∈ v :: vs := by
  unfold pickOne
  split
  · simp
  · next w ws =>
    have hlt : Config.drawIndex k % ((w :: ws).length + 1) < (v :: w :: ws).length := Nat.mod_lt _ (by simp)
    rw [List.getD_eq_getElem _ _ hlt]
    exact List.getElem_mem _

/-! Ranges -/

theorem addrPlus_sub (a : Addr) (k : Nat) : addrPlus a k - a = BitVec.ofNat 32 k := by
  rw [addrPlus, BitVec.add_comm, BitVec.add_sub_cancel]

theorem rangeHas_eq_true {r : Range} {a : Addr} : rangeHas r a = true ↔ (a - r.base).toNat < r.len := by
  unfold rangeHas
  exact decide_eq_true_iff

theorem rangeHas_addrPlus (r : Range) {k : Nat} (h : k < r.len) (hl : r.len ≤ 2 ^ 32) :
    rangeHas r (addrPlus r.base k) = true := by
  rw [rangeHas_eq_true, addrPlus_sub, BitVec.toNat_ofNat, Nat.mod_eq_of_lt (by omega)]
  exact h

theorem rangeHas_iff (r : Range) (a : Addr) :
    rangeHas r a = true ↔ ∃ k, k < r.len ∧ k < 2 ^ 32 ∧ a = addrPlus r.base k := by
  rw [rangeHas_eq_true]
  constructor
  · intro h
    refine ⟨_, h, BitVec.isLt _, ?_⟩
    rw [addrPlus, BitVec.ofNat_toNat, BitVec.setWidth_eq, BitVec.add_comm, BitVec.sub_add_cancel]
  · rintro ⟨k, hk, hk2, rfl⟩
    rw [addrPlus_sub, BitVec.toNat_ofNat, Nat.mod_eq_of_lt hk2]
    exact hk

/-- Ranges that are apart share no address. -/
theorem rangeApart_disjoint {r q : Range} (h : rangeApart r q = true) (a : Addr) :
    ¬(rangeHas r a = true ∧ rangeHas q a = true) := by
  simp only [rangeApart, rangeHas, Bool.or_eq_true, Bool.and_eq_true, decide_eq_true_eq] at h ⊢
  rintro ⟨h1, h2⟩
  rcases h with (h | h) | h
  · omega
  · omega
  · bv_omega

/-- Ranges that share no address are apart. -/
theorem rangeApart_of_disjoint {r q : Range} (h : ∀ a, ¬(rangeHas r a = true ∧ rangeHas q a = true)) :
    rangeApart r q = true := by
  simp only [rangeApart, rangeHas, Bool.or_eq_true, Bool.and_eq_true, decide_eq_true_eq] at h ⊢
  by_contra hc
  simp only [not_or, not_and_or, not_le] at hc
  obtain ⟨⟨h1, h2⟩, h3⟩ := hc
  rcases h3 with h3 | h3
  · exact h q.base ⟨h3, by simp; omega⟩
  · exact h r.base ⟨by simp; omega, h3⟩

end Sys2Proof.Machine
end

