-- ==== Sys2Proof/Laws/PerInstr.lean ====
section
/-! SUPPORT. A fact about every command's encoding, made command by command. -/

namespace Sys2Proof.Laws

open Sys2Proof

/-- The word of a command holds its opcode in OP and 0 in RSV (30_encoding.md rules R72, R74, R82). -/
def OpField.Statement (i : Instr) : Prop := opField (encode i) = i.opcode ∧ rsvField (encode i) = 0#3

theorem packWord_op_rsv (op : BitVec 4) (be : Bool) (bps : BitVec 8) (ch : BitVec 16) :
    opField (packWord op be bps ch) = op ∧ rsvField (packWord op be bps ch) = 0#3 := by
  constructor
  · apply BitVec.eq_of_getLsbD_eq
    intro i hi
    have h1 : i < 8 := by omega
    have h2 : i < 16 := by omega
    have h3 : i < 32 := by omega
    simp [opField, packWord, hi, h1, h2, h3]
  · apply BitVec.eq_of_getLsbD_eq
    intro i hi
    have h1 : 5 + i < 8 := by omega
    have h2 : 5 + i < 16 := by omega
    have h3 : 5 + i < 32 := by omega
    have h4 : ¬5 + i < 4 := by omega
    have h5 : 4 ≤ 5 + i := by omega
    have h6 : op.getLsbD (5 + i) = false := BitVec.getLsbD_of_ge _ _ h5
    have h7 : (BitVec.ofBool be).getLsbD (5 + i - 4) = false := BitVec.getLsbD_of_ge _ _ (by omega)
    simp [rsvField, packWord, h1, h2, h3, h4, h6, h7]

theorem OpField.conv (bps : BitVec 8) (be : Bool) : OpField.Statement (.conv bps be) := packWord_op_rsv _ _ _ _

theorem OpField.split8 (ch : BitVec 16) : OpField.Statement (.split8 ch) := packWord_op_rsv _ _ _ _

theorem OpField.split16 (ch : BitVec 16) (be : Bool) : OpField.Statement (.split16 ch be) := packWord_op_rsv _ _ _ _

theorem OpField.fnorm (ch : BitVec 16) : OpField.Statement (.fnorm ch) := packWord_op_rsv _ _ _ _

end Sys2Proof.Laws
end

