-- ==== Sys2Proof/Laws/State.lean ====
section
/-! SUPPORT. One lemma per field per named update of State, each true by rfl. -/

namespace Sys2Proof.Machine

open Sys2Proof

variable (s : State)

@[simp] theorem State.withCmd_cmd (v : Word) : (s.withCmd v).cmd = v := rfl
@[simp] theorem State.withCmd_phase (v : Word) : (s.withCmd v).phase = s.phase := rfl
@[simp] theorem State.withCmd_done (v : Word) : (s.withCmd v).done = s.done := rfl
@[simp] theorem State.withCmd_err (v : Word) : (s.withCmd v).err = s.err := rfl
@[simp] theorem State.withCmd_ovr (v : Word) : (s.withCmd v).ovr = s.ovr := rfl
@[simp] theorem State.withCmd_errcode (v : Word) : (s.withCmd v).errcode = s.errcode := rfl
@[simp] theorem State.withCmd_errval (v : Word) : (s.withCmd v).errval = s.errval := rfl
@[simp] theorem State.withCmd_srcAddr (v : Word) : (s.withCmd v).srcAddr = s.srcAddr := rfl
@[simp] theorem State.withCmd_srcLen (v : Word) : (s.withCmd v).srcLen = s.srcLen := rfl
@[simp] theorem State.withCmd_dst0Addr (v : Word) : (s.withCmd v).dst0Addr = s.dst0Addr := rfl
@[simp] theorem State.withCmd_dst1Addr (v : Word) : (s.withCmd v).dst1Addr = s.dst1Addr := rfl
@[simp] theorem State.withCmd_outCount (v : Word) : (s.withCmd v).outCount = s.outCount := rfl
@[simp] theorem State.withCmd_doneIe (v : Word) : (s.withCmd v).doneIe = s.doneIe := rfl
@[simp] theorem State.withCmd_latched (v : Word) : (s.withCmd v).latched = s.latched := rfl
@[simp] theorem State.withCmd_mem (v : Word) : (s.withCmd v).mem = s.mem := rfl
@[simp] theorem State.withCmd_resetLine (v : Word) : (s.withCmd v).resetLine = s.resetLine := rfl
@[simp] theorem State.withCmd_platform (v : Word) : (s.withCmd v).platform = s.platform := rfl
@[simp] theorem State.withCmd_unobserved (v : Word) : (s.withCmd v).unobserved = s.unobserved := rfl
@[simp] theorem State.withCmd_hostDirty (v : Word) : (s.withCmd v).hostDirty = s.hostDirty := rfl
@[simp] theorem State.withCmd_hostStale (v : Word) : (s.withCmd v).hostStale = s.hostStale := rfl
@[simp] theorem State.withCmd_inputs (v : Word) : (s.withCmd v).inputs = s.inputs := rfl
@[simp] theorem State.withCmd_readData (v : Word) : (s.withCmd v).readData = s.readData := rfl
@[simp] theorem State.withCmd_draws (v : Word) : (s.withCmd v).draws = s.draws := rfl

@[simp] theorem State.clearRecord_cmd : s.clearRecord.cmd = s.cmd := rfl
@[simp] theorem State.clearRecord_phase : s.clearRecord.phase = s.phase := rfl
@[simp] theorem State.clearRecord_done : s.clearRecord.done = false := rfl
@[simp] theorem State.clearRecord_err : s.clearRecord.err = false := rfl
@[simp] theorem State.clearRecord_ovr : s.clearRecord.ovr = s.ovr := rfl
@[simp] theorem State.clearRecord_errcode : s.clearRecord.errcode = .noError := rfl
@[simp] theorem State.clearRecord_errval : s.clearRecord.errval = 0#32 := rfl
@[simp] theorem State.clearRecord_srcAddr : s.clearRecord.srcAddr = s.srcAddr := rfl
@[simp] theorem State.clearRecord_srcLen : s.clearRecord.srcLen = s.srcLen := rfl
@[simp] theorem State.clearRecord_dst0Addr : s.clearRecord.dst0Addr = s.dst0Addr := rfl
@[simp] theorem State.clearRecord_dst1Addr : s.clearRecord.dst1Addr = s.dst1Addr := rfl
@[simp] theorem State.clearRecord_outCount : s.clearRecord.outCount = 0#32 := rfl
@[simp] theorem State.clearRecord_doneIe : s.clearRecord.doneIe = s.doneIe := rfl
@[simp] theorem State.clearRecord_latched : s.clearRecord.latched = s.latched := rfl
@[simp] theorem State.clearRecord_mem : s.clearRecord.mem = s.mem := rfl
@[simp] theorem State.clearRecord_resetLine : s.clearRecord.resetLine = s.resetLine := rfl
@[simp] theorem State.clearRecord_platform : s.clearRecord.platform = s.platform := rfl
@[simp] theorem State.clearRecord_unobserved : s.clearRecord.unobserved = s.unobserved := rfl
@[simp] theorem State.clearRecord_hostDirty : s.clearRecord.hostDirty = s.hostDirty := rfl
@[simp] theorem State.clearRecord_hostStale : s.clearRecord.hostStale = s.hostStale := rfl
@[simp] theorem State.clearRecord_inputs : s.clearRecord.inputs = s.inputs := rfl
@[simp] theorem State.clearRecord_readData : s.clearRecord.readData = s.readData := rfl
@[simp] theorem State.clearRecord_draws : s.clearRecord.draws = s.draws := rfl

@[simp] theorem State.completeError_cmd (code : ErrCode) (val : Word) : (s.completeError code val).cmd = s.cmd := rfl
@[simp] theorem State.completeError_phase (code : ErrCode) (val : Word) :
    (s.completeError code val).phase = s.phase := rfl
@[simp] theorem State.completeError_done (code : ErrCode) (val : Word) : (s.completeError code val).done = true := rfl
@[simp] theorem State.completeError_err (code : ErrCode) (val : Word) : (s.completeError code val).err = true := rfl
@[simp] theorem State.completeError_ovr (code : ErrCode) (val : Word) : (s.completeError code val).ovr = s.ovr := rfl
@[simp] theorem State.completeError_errcode (code : ErrCode) (val : Word) :
    (s.completeError code val).errcode = code := rfl
@[simp] theorem State.completeError_errval (code : ErrCode) (val : Word) :
    (s.completeError code val).errval = val := rfl
@[simp] theorem State.completeError_srcAddr (code : ErrCode) (val : Word) :
    (s.completeError code val).srcAddr = s.srcAddr := rfl
@[simp] theorem State.completeError_srcLen (code : ErrCode) (val : Word) :
    (s.completeError code val).srcLen = s.srcLen := rfl
@[simp] theorem State.completeError_dst0Addr (code : ErrCode) (val : Word) :
    (s.completeError code val).dst0Addr = s.dst0Addr := rfl
@[simp] theorem State.completeError_dst1Addr (code : ErrCode) (val : Word) :
    (s.completeError code val).dst1Addr = s.dst1Addr := rfl
@[simp] theorem State.completeError_outCount (code : ErrCode) (val : Word) :
    (s.completeError code val).outCount = 0#32 := rfl
@[simp] theorem State.completeError_doneIe (code : ErrCode) (val : Word) :
    (s.completeError code val).doneIe = s.doneIe := rfl
@[simp] theorem State.completeError_latched (code : ErrCode) (val : Word) :
    (s.completeError code val).latched = s.latched := rfl
@[simp] theorem State.completeError_mem (code : ErrCode) (val : Word) : (s.completeError code val).mem = s.mem := rfl
@[simp] theorem State.completeError_resetLine (code : ErrCode) (val : Word) :
    (s.completeError code val).resetLine = s.resetLine := rfl
@[simp] theorem State.completeError_platform (code : ErrCode) (val : Word) :
    (s.completeError code val).platform = s.platform := rfl
@[simp] theorem State.completeError_unobserved (code : ErrCode) (val : Word) :
    (s.completeError code val).unobserved = s.unobserved := rfl
@[simp] theorem State.completeError_hostDirty (code : ErrCode) (val : Word) :
    (s.completeError code val).hostDirty = s.hostDirty := rfl
@[simp] theorem State.completeError_hostStale (code : ErrCode) (val : Word) :
    (s.completeError code val).hostStale = s.hostStale := rfl
@[simp] theorem State.completeError_inputs (code : ErrCode) (val : Word) :
    (s.completeError code val).inputs = s.inputs := rfl
@[simp] theorem State.completeError_readData (code : ErrCode) (val : Word) :
    (s.completeError code val).readData = s.readData := rfl
@[simp] theorem State.completeError_draws (code : ErrCode) (val : Word) :
    (s.completeError code val).draws = s.draws := rfl

@[simp] theorem State.latch_cmd (op : Op) (be : Bool) (bps : BitVec 8) (ch : BitVec 16) :
    (s.latch op be bps ch).cmd = s.cmd := rfl
@[simp] theorem State.latch_phase (op : Op) (be : Bool) (bps : BitVec 8) (ch : BitVec 16) :
    (s.latch op be bps ch).phase = .running := rfl
@[simp] theorem State.latch_done (op : Op) (be : Bool) (bps : BitVec 8) (ch : BitVec 16) :
    (s.latch op be bps ch).done = s.done := rfl
@[simp] theorem State.latch_err (op : Op) (be : Bool) (bps : BitVec 8) (ch : BitVec 16) :
    (s.latch op be bps ch).err = s.err := rfl
@[simp] theorem State.latch_ovr (op : Op) (be : Bool) (bps : BitVec 8) (ch : BitVec 16) :
    (s.latch op be bps ch).ovr = s.ovr := rfl
@[simp] theorem State.latch_errcode (op : Op) (be : Bool) (bps : BitVec 8) (ch : BitVec 16) :
    (s.latch op be bps ch).errcode = s.errcode := rfl
@[simp] theorem State.latch_errval (op : Op) (be : Bool) (bps : BitVec 8) (ch : BitVec 16) :
    (s.latch op be bps ch).errval = s.errval := rfl
@[simp] theorem State.latch_srcAddr (op : Op) (be : Bool) (bps : BitVec 8) (ch : BitVec 16) :
    (s.latch op be bps ch).srcAddr = s.srcAddr := rfl
@[simp] theorem State.latch_srcLen (op : Op) (be : Bool) (bps : BitVec 8) (ch : BitVec 16) :
    (s.latch op be bps ch).srcLen = s.srcLen := rfl
@[simp] theorem State.latch_dst0Addr (op : Op) (be : Bool) (bps : BitVec 8) (ch : BitVec 16) :
    (s.latch op be bps ch).dst0Addr = s.dst0Addr := rfl
@[simp] theorem State.latch_dst1Addr (op : Op) (be : Bool) (bps : BitVec 8) (ch : BitVec 16) :
    (s.latch op be bps ch).dst1Addr = s.dst1Addr := rfl
@[simp] theorem State.latch_outCount (op : Op) (be : Bool) (bps : BitVec 8) (ch : BitVec 16) :
    (s.latch op be bps ch).outCount = s.outCount := rfl
@[simp] theorem State.latch_doneIe (op : Op) (be : Bool) (bps : BitVec 8) (ch : BitVec 16) :
    (s.latch op be bps ch).doneIe = s.doneIe := rfl
@[simp] theorem State.latch_latched (op : Op) (be : Bool) (bps : BitVec 8) (ch : BitVec 16) :
    (s.latch op be bps ch).latched = { op := op, be := be, bps := bps, ch := ch, src := s.srcAddr, len := s.srcLen, dst0 := s.dst0Addr, dst1 := s.dst1Addr } := rfl
@[simp] theorem State.latch_mem (op : Op) (be : Bool) (bps : BitVec 8) (ch : BitVec 16) :
    (s.latch op be bps ch).mem = s.mem := rfl
@[simp] theorem State.latch_resetLine (op : Op) (be : Bool) (bps : BitVec 8) (ch : BitVec 16) :
    (s.latch op be bps ch).resetLine = s.resetLine := rfl
@[simp] theorem State.latch_platform (op : Op) (be : Bool) (bps : BitVec 8) (ch : BitVec 16) :
    (s.latch op be bps ch).platform = s.platform := rfl
@[simp] theorem State.latch_unobserved (op : Op) (be : Bool) (bps : BitVec 8) (ch : BitVec 16) :
    (s.latch op be bps ch).unobserved = s.unobserved := rfl
@[simp] theorem State.latch_hostDirty (op : Op) (be : Bool) (bps : BitVec 8) (ch : BitVec 16) :
    (s.latch op be bps ch).hostDirty = s.hostDirty := rfl
@[simp] theorem State.latch_hostStale (op : Op) (be : Bool) (bps : BitVec 8) (ch : BitVec 16) :
    (s.latch op be bps ch).hostStale = s.hostStale := rfl
@[simp] theorem State.latch_inputs (op : Op) (be : Bool) (bps : BitVec 8) (ch : BitVec 16) :
    (s.latch op be bps ch).inputs = s.inputs := rfl
@[simp] theorem State.latch_readData (op : Op) (be : Bool) (bps : BitVec 8) (ch : BitVec 16) :
    (s.latch op be bps ch).readData = s.readData := rfl
@[simp] theorem State.latch_draws (op : Op) (be : Bool) (bps : BitVec 8) (ch : BitVec 16) :
    (s.latch op be bps ch).draws = s.draws := rfl

@[simp] theorem State.overrun_cmd : s.overrun.cmd = s.cmd := rfl
@[simp] theorem State.overrun_phase : s.overrun.phase = s.phase := rfl
@[simp] theorem State.overrun_done : s.overrun.done = s.done := rfl
@[simp] theorem State.overrun_err : s.overrun.err = s.err := rfl
@[simp] theorem State.overrun_ovr : s.overrun.ovr = true := rfl
@[simp] theorem State.overrun_errcode : s.overrun.errcode = s.errcode := rfl
@[simp] theorem State.overrun_errval : s.overrun.errval = s.errval := rfl
@[simp] theorem State.overrun_srcAddr : s.overrun.srcAddr = s.srcAddr := rfl
@[simp] theorem State.overrun_srcLen : s.overrun.srcLen = s.srcLen := rfl
@[simp] theorem State.overrun_dst0Addr : s.overrun.dst0Addr = s.dst0Addr := rfl
@[simp] theorem State.overrun_dst1Addr : s.overrun.dst1Addr = s.dst1Addr := rfl
@[simp] theorem State.overrun_outCount : s.overrun.outCount = s.outCount := rfl
@[simp] theorem State.overrun_doneIe : s.overrun.doneIe = s.doneIe := rfl
@[simp] theorem State.overrun_latched : s.overrun.latched = s.latched := rfl
@[simp] theorem State.overrun_mem : s.overrun.mem = s.mem := rfl
@[simp] theorem State.overrun_resetLine : s.overrun.resetLine = s.resetLine := rfl
@[simp] theorem State.overrun_platform : s.overrun.platform = s.platform := rfl
@[simp] theorem State.overrun_unobserved : s.overrun.unobserved = s.unobserved := rfl
@[simp] theorem State.overrun_hostDirty : s.overrun.hostDirty = s.hostDirty := rfl
@[simp] theorem State.overrun_hostStale : s.overrun.hostStale = s.hostStale := rfl
@[simp] theorem State.overrun_inputs : s.overrun.inputs = s.inputs := rfl
@[simp] theorem State.overrun_readData : s.overrun.readData = s.readData := rfl
@[simp] theorem State.overrun_draws : s.overrun.draws = s.draws := rfl

@[simp] theorem State.retire_cmd (p : Plan) : (s.retire p).cmd = s.cmd := rfl
@[simp] theorem State.retire_phase (p : Plan) : (s.retire p).phase = s.phase := rfl
@[simp] theorem State.retire_done (p : Plan) : (s.retire p).done = s.done := rfl
@[simp] theorem State.retire_err (p : Plan) : (s.retire p).err = s.err := rfl
@[simp] theorem State.retire_ovr (p : Plan) : (s.retire p).ovr = s.ovr := rfl
@[simp] theorem State.retire_errcode (p : Plan) : (s.retire p).errcode = s.errcode := rfl
@[simp] theorem State.retire_errval (p : Plan) : (s.retire p).errval = s.errval := rfl
@[simp] theorem State.retire_srcAddr (p : Plan) : (s.retire p).srcAddr = s.srcAddr := rfl
@[simp] theorem State.retire_srcLen (p : Plan) : (s.retire p).srcLen = s.srcLen := rfl
@[simp] theorem State.retire_dst0Addr (p : Plan) : (s.retire p).dst0Addr = s.dst0Addr := rfl
@[simp] theorem State.retire_dst1Addr (p : Plan) : (s.retire p).dst1Addr = s.dst1Addr := rfl
@[simp] theorem State.retire_outCount (p : Plan) : (s.retire p).outCount = s.outCount := rfl
@[simp] theorem State.retire_doneIe (p : Plan) : (s.retire p).doneIe = s.doneIe := rfl
@[simp] theorem State.retire_latched (p : Plan) : (s.retire p).latched = s.latched := rfl
@[simp] theorem State.retire_mem (p : Plan) : (s.retire p).mem = s.mem := rfl
@[simp] theorem State.retire_resetLine (p : Plan) : (s.retire p).resetLine = s.resetLine := rfl
@[simp] theorem State.retire_platform (p : Plan) : (s.retire p).platform = s.platform := rfl
@[simp] theorem State.retire_unobserved (p : Plan) :
    (s.retire p).unobserved = { touched := planFootprint p, old := p.stores.map fun st => (st.addr.toNat, readByte s.mem st.addr) } :: s.unobserved := rfl
@[simp] theorem State.retire_hostDirty (p : Plan) :
    (s.retire p).hostDirty = s.hostDirty.filter fun a => !(p.stores.any fun st => st.addr == a) := rfl
@[simp] theorem State.retire_hostStale (p : Plan) :
    (s.retire p).hostStale = if s.platform.coherent then s.hostStale else p.stores.map (·.addr) ++ s.hostStale := rfl
@[simp] theorem State.retire_inputs (p : Plan) : (s.retire p).inputs = s.inputs := rfl
@[simp] theorem State.retire_readData (p : Plan) : (s.retire p).readData = s.readData := rfl
@[simp] theorem State.retire_draws (p : Plan) : (s.retire p).draws = s.draws := rfl

@[simp] theorem State.completeOk_cmd (p : Plan) : (s.completeOk p).cmd = s.cmd := rfl
@[simp] theorem State.completeOk_phase (p : Plan) : (s.completeOk p).phase = .idle := rfl
@[simp] theorem State.completeOk_done (p : Plan) : (s.completeOk p).done = true := rfl
@[simp] theorem State.completeOk_err (p : Plan) : (s.completeOk p).err = s.err := rfl
@[simp] theorem State.completeOk_ovr (p : Plan) : (s.completeOk p).ovr = s.ovr := rfl
@[simp] theorem State.completeOk_errcode (p : Plan) : (s.completeOk p).errcode = s.errcode := rfl
@[simp] theorem State.completeOk_errval (p : Plan) : (s.completeOk p).errval = s.errval := rfl
@[simp] theorem State.completeOk_srcAddr (p : Plan) : (s.completeOk p).srcAddr = s.srcAddr := rfl
@[simp] theorem State.completeOk_srcLen (p : Plan) : (s.completeOk p).srcLen = s.srcLen := rfl
@[simp] theorem State.completeOk_dst0Addr (p : Plan) : (s.completeOk p).dst0Addr = s.dst0Addr := rfl
@[simp] theorem State.completeOk_dst1Addr (p : Plan) : (s.completeOk p).dst1Addr = s.dst1Addr := rfl
@[simp] theorem State.completeOk_outCount (p : Plan) : (s.completeOk p).outCount = BitVec.ofNat 32 p.count := rfl
@[simp] theorem State.completeOk_doneIe (p : Plan) : (s.completeOk p).doneIe = s.doneIe := rfl
@[simp] theorem State.completeOk_latched (p : Plan) : (s.completeOk p).latched = s.latched := rfl
@[simp] theorem State.completeOk_mem (p : Plan) : (s.completeOk p).mem = applyStores p.stores s.mem := rfl
@[simp] theorem State.completeOk_resetLine (p : Plan) : (s.completeOk p).resetLine = s.resetLine := rfl
@[simp] theorem State.completeOk_platform (p : Plan) : (s.completeOk p).platform = s.platform := rfl
@[simp] theorem State.completeOk_unobserved (p : Plan) :
    (s.completeOk p).unobserved = { touched := planFootprint p, old := p.stores.map fun st => (st.addr.toNat, readByte s.mem st.addr) } :: s.unobserved := rfl
@[simp] theorem State.completeOk_hostDirty (p : Plan) :
    (s.completeOk p).hostDirty = s.hostDirty.filter fun a => !(p.stores.any fun st => st.addr == a) := rfl
@[simp] theorem State.completeOk_hostStale (p : Plan) :
    (s.completeOk p).hostStale = if s.platform.coherent then s.hostStale else p.stores.map (·.addr) ++ s.hostStale := rfl
@[simp] theorem State.completeOk_inputs (p : Plan) : (s.completeOk p).inputs = s.inputs := rfl
@[simp] theorem State.completeOk_readData (p : Plan) : (s.completeOk p).readData = s.readData := rfl
@[simp] theorem State.completeOk_draws (p : Plan) : (s.completeOk p).draws = s.draws := rfl

@[simp] theorem State.completeBusError_cmd (p : Plan) (a : Addr) (as : List Addr) :
    (s.completeBusError p a as).cmd = s.cmd := rfl
@[simp] theorem State.completeBusError_phase (p : Plan) (a : Addr) (as : List Addr) :
    (s.completeBusError p a as).phase = .idle := rfl
@[simp] theorem State.completeBusError_done (p : Plan) (a : Addr) (as : List Addr) :
    (s.completeBusError p a as).done = true := rfl
@[simp] theorem State.completeBusError_err (p : Plan) (a : Addr) (as : List Addr) :
    (s.completeBusError p a as).err = true := rfl
@[simp] theorem State.completeBusError_ovr (p : Plan) (a : Addr) (as : List Addr) :
    (s.completeBusError p a as).ovr = s.ovr := rfl
@[simp] theorem State.completeBusError_errcode (p : Plan) (a : Addr) (as : List Addr) :
    (s.completeBusError p a as).errcode = .busError := rfl
@[simp] theorem State.completeBusError_errval (p : Plan) (a : Addr) (as : List Addr) :
    (s.completeBusError p a as).errval = pickOne s.draws a as := rfl
@[simp] theorem State.completeBusError_srcAddr (p : Plan) (a : Addr) (as : List Addr) :
    (s.completeBusError p a as).srcAddr = s.srcAddr := rfl
@[simp] theorem State.completeBusError_srcLen (p : Plan) (a : Addr) (as : List Addr) :
    (s.completeBusError p a as).srcLen = s.srcLen := rfl
@[simp] theorem State.completeBusError_dst0Addr (p : Plan) (a : Addr) (as : List Addr) :
    (s.completeBusError p a as).dst0Addr = s.dst0Addr := rfl
@[simp] theorem State.completeBusError_dst1Addr (p : Plan) (a : Addr) (as : List Addr) :
    (s.completeBusError p a as).dst1Addr = s.dst1Addr := rfl
@[simp] theorem State.completeBusError_outCount (p : Plan) (a : Addr) (as : List Addr) :
    (s.completeBusError p a as).outCount = 0#32 := rfl
@[simp] theorem State.completeBusError_doneIe (p : Plan) (a : Addr) (as : List Addr) :
    (s.completeBusError p a as).doneIe = s.doneIe := rfl
@[simp] theorem State.completeBusError_latched (p : Plan) (a : Addr) (as : List Addr) :
    (s.completeBusError p a as).latched = s.latched := rfl
@[simp] theorem State.completeBusError_mem (p : Plan) (a : Addr) (as : List Addr) :
    (s.completeBusError p a as).mem = scatterStores s.platform (s.draws + 1) p.stores s.mem := rfl
@[simp] theorem State.completeBusError_resetLine (p : Plan) (a : Addr) (as : List Addr) :
    (s.completeBusError p a as).resetLine = s.resetLine := rfl
@[simp] theorem State.completeBusError_platform (p : Plan) (a : Addr) (as : List Addr) :
    (s.completeBusError p a as).platform = s.platform := rfl
@[simp] theorem State.completeBusError_unobserved (p : Plan) (a : Addr) (as : List Addr) :
    (s.completeBusError p a as).unobserved = { touched := planFootprint p, old := p.stores.map fun st => (st.addr.toNat, readByte s.mem st.addr) } :: s.unobserved := rfl
@[simp] theorem State.completeBusError_hostDirty (p : Plan) (a : Addr) (as : List Addr) :
    (s.completeBusError p a as).hostDirty = s.hostDirty.filter fun a => !(p.stores.any fun st => st.addr == a) := rfl
@[simp] theorem State.completeBusError_hostStale (p : Plan) (a : Addr) (as : List Addr) :
    (s.completeBusError p a as).hostStale = if s.platform.coherent then s.hostStale else p.stores.map (·.addr) ++ s.hostStale := rfl
@[simp] theorem State.completeBusError_inputs (p : Plan) (a : Addr) (as : List Addr) :
    (s.completeBusError p a as).inputs = s.inputs := rfl
@[simp] theorem State.completeBusError_readData (p : Plan) (a : Addr) (as : List Addr) :
    (s.completeBusError p a as).readData = s.readData := rfl
@[simp] theorem State.completeBusError_draws (p : Plan) (a : Addr) (as : List Addr) :
    (s.completeBusError p a as).draws = s.draws + 1 + p.stores.length := rfl

@[simp] theorem State.ackStatus_cmd (v : Word) : (s.ackStatus v).cmd = s.cmd := rfl
@[simp] theorem State.ackStatus_phase (v : Word) : (s.ackStatus v).phase = s.phase := rfl
@[simp] theorem State.ackStatus_done (v : Word) : (s.ackStatus v).done = (s.done && !(v.getLsbD 1)) := rfl
@[simp] theorem State.ackStatus_err (v : Word) : (s.ackStatus v).err = s.err := rfl
@[simp] theorem State.ackStatus_ovr (v : Word) : (s.ackStatus v).ovr = (s.ovr && !(v.getLsbD 3)) := rfl
@[simp] theorem State.ackStatus_errcode (v : Word) : (s.ackStatus v).errcode = s.errcode := rfl
@[simp] theorem State.ackStatus_errval (v : Word) : (s.ackStatus v).errval = s.errval := rfl
@[simp] theorem State.ackStatus_srcAddr (v : Word) : (s.ackStatus v).srcAddr = s.srcAddr := rfl
@[simp] theorem State.ackStatus_srcLen (v : Word) : (s.ackStatus v).srcLen = s.srcLen := rfl
@[simp] theorem State.ackStatus_dst0Addr (v : Word) : (s.ackStatus v).dst0Addr = s.dst0Addr := rfl
@[simp] theorem State.ackStatus_dst1Addr (v : Word) : (s.ackStatus v).dst1Addr = s.dst1Addr := rfl
@[simp] theorem State.ackStatus_outCount (v : Word) : (s.ackStatus v).outCount = s.outCount := rfl
@[simp] theorem State.ackStatus_doneIe (v : Word) : (s.ackStatus v).doneIe = s.doneIe := rfl
@[simp] theorem State.ackStatus_latched (v : Word) : (s.ackStatus v).latched = s.latched := rfl
@[simp] theorem State.ackStatus_mem (v : Word) : (s.ackStatus v).mem = s.mem := rfl
@[simp] theorem State.ackStatus_resetLine (v : Word) : (s.ackStatus v).resetLine = s.resetLine := rfl
@[simp] theorem State.ackStatus_platform (v : Word) : (s.ackStatus v).platform = s.platform := rfl
@[simp] theorem State.ackStatus_unobserved (v : Word) : (s.ackStatus v).unobserved = s.unobserved := rfl
@[simp] theorem State.ackStatus_hostDirty (v : Word) : (s.ackStatus v).hostDirty = s.hostDirty := rfl
@[simp] theorem State.ackStatus_hostStale (v : Word) : (s.ackStatus v).hostStale = s.hostStale := rfl
@[simp] theorem State.ackStatus_inputs (v : Word) : (s.ackStatus v).inputs = s.inputs := rfl
@[simp] theorem State.ackStatus_readData (v : Word) : (s.ackStatus v).readData = s.readData := rfl
@[simp] theorem State.ackStatus_draws (v : Word) : (s.ackStatus v).draws = s.draws := rfl

@[simp] theorem State.observe_cmd : s.observe.cmd = s.cmd := rfl
@[simp] theorem State.observe_phase : s.observe.phase = s.phase := rfl
@[simp] theorem State.observe_done : s.observe.done = s.done := rfl
@[simp] theorem State.observe_err : s.observe.err = s.err := rfl
@[simp] theorem State.observe_ovr : s.observe.ovr = s.ovr := rfl
@[simp] theorem State.observe_errcode : s.observe.errcode = s.errcode := rfl
@[simp] theorem State.observe_errval : s.observe.errval = s.errval := rfl
@[simp] theorem State.observe_srcAddr : s.observe.srcAddr = s.srcAddr := rfl
@[simp] theorem State.observe_srcLen : s.observe.srcLen = s.srcLen := rfl
@[simp] theorem State.observe_dst0Addr : s.observe.dst0Addr = s.dst0Addr := rfl
@[simp] theorem State.observe_dst1Addr : s.observe.dst1Addr = s.dst1Addr := rfl
@[simp] theorem State.observe_outCount : s.observe.outCount = s.outCount := rfl
@[simp] theorem State.observe_doneIe : s.observe.doneIe = s.doneIe := rfl
@[simp] theorem State.observe_latched : s.observe.latched = s.latched := rfl
@[simp] theorem State.observe_mem : s.observe.mem = s.mem := rfl
@[simp] theorem State.observe_resetLine : s.observe.resetLine = s.resetLine := rfl
@[simp] theorem State.observe_platform : s.observe.platform = s.platform := rfl
@[simp] theorem State.observe_unobserved : s.observe.unobserved = [] := rfl
@[simp] theorem State.observe_hostDirty : s.observe.hostDirty = s.hostDirty := rfl
@[simp] theorem State.observe_hostStale : s.observe.hostStale = s.hostStale := rfl
@[simp] theorem State.observe_inputs : s.observe.inputs = s.inputs := rfl
@[simp] theorem State.observe_readData : s.observe.readData = s.readData := rfl
@[simp] theorem State.observe_draws : s.observe.draws = s.draws := rfl

@[simp] theorem State.answer_cmd (v : Option Word) : (s.answer v).cmd = s.cmd := rfl
@[simp] theorem State.answer_phase (v : Option Word) : (s.answer v).phase = s.phase := rfl
@[simp] theorem State.answer_done (v : Option Word) : (s.answer v).done = s.done := rfl
@[simp] theorem State.answer_err (v : Option Word) : (s.answer v).err = s.err := rfl
@[simp] theorem State.answer_ovr (v : Option Word) : (s.answer v).ovr = s.ovr := rfl
@[simp] theorem State.answer_errcode (v : Option Word) : (s.answer v).errcode = s.errcode := rfl
@[simp] theorem State.answer_errval (v : Option Word) : (s.answer v).errval = s.errval := rfl
@[simp] theorem State.answer_srcAddr (v : Option Word) : (s.answer v).srcAddr = s.srcAddr := rfl
@[simp] theorem State.answer_srcLen (v : Option Word) : (s.answer v).srcLen = s.srcLen := rfl
@[simp] theorem State.answer_dst0Addr (v : Option Word) : (s.answer v).dst0Addr = s.dst0Addr := rfl
@[simp] theorem State.answer_dst1Addr (v : Option Word) : (s.answer v).dst1Addr = s.dst1Addr := rfl
@[simp] theorem State.answer_outCount (v : Option Word) : (s.answer v).outCount = s.outCount := rfl
@[simp] theorem State.answer_doneIe (v : Option Word) : (s.answer v).doneIe = s.doneIe := rfl
@[simp] theorem State.answer_latched (v : Option Word) : (s.answer v).latched = s.latched := rfl
@[simp] theorem State.answer_mem (v : Option Word) : (s.answer v).mem = s.mem := rfl
@[simp] theorem State.answer_resetLine (v : Option Word) : (s.answer v).resetLine = s.resetLine := rfl
@[simp] theorem State.answer_platform (v : Option Word) : (s.answer v).platform = s.platform := rfl
@[simp] theorem State.answer_unobserved (v : Option Word) : (s.answer v).unobserved = s.unobserved := rfl
@[simp] theorem State.answer_hostDirty (v : Option Word) : (s.answer v).hostDirty = s.hostDirty := rfl
@[simp] theorem State.answer_hostStale (v : Option Word) : (s.answer v).hostStale = s.hostStale := rfl
@[simp] theorem State.answer_inputs (v : Option Word) : (s.answer v).inputs = s.inputs := rfl
@[simp] theorem State.answer_readData (v : Option Word) : (s.answer v).readData = v := rfl
@[simp] theorem State.answer_draws (v : Option Word) : (s.answer v).draws = s.draws := rfl

@[simp] theorem State.withInputs_cmd (q : List Input) : (s.withInputs q).cmd = s.cmd := rfl
@[simp] theorem State.withInputs_phase (q : List Input) : (s.withInputs q).phase = s.phase := rfl
@[simp] theorem State.withInputs_done (q : List Input) : (s.withInputs q).done = s.done := rfl
@[simp] theorem State.withInputs_err (q : List Input) : (s.withInputs q).err = s.err := rfl
@[simp] theorem State.withInputs_ovr (q : List Input) : (s.withInputs q).ovr = s.ovr := rfl
@[simp] theorem State.withInputs_errcode (q : List Input) : (s.withInputs q).errcode = s.errcode := rfl
@[simp] theorem State.withInputs_errval (q : List Input) : (s.withInputs q).errval = s.errval := rfl
@[simp] theorem State.withInputs_srcAddr (q : List Input) : (s.withInputs q).srcAddr = s.srcAddr := rfl
@[simp] theorem State.withInputs_srcLen (q : List Input) : (s.withInputs q).srcLen = s.srcLen := rfl
@[simp] theorem State.withInputs_dst0Addr (q : List Input) : (s.withInputs q).dst0Addr = s.dst0Addr := rfl
@[simp] theorem State.withInputs_dst1Addr (q : List Input) : (s.withInputs q).dst1Addr = s.dst1Addr := rfl
@[simp] theorem State.withInputs_outCount (q : List Input) : (s.withInputs q).outCount = s.outCount := rfl
@[simp] theorem State.withInputs_doneIe (q : List Input) : (s.withInputs q).doneIe = s.doneIe := rfl
@[simp] theorem State.withInputs_latched (q : List Input) : (s.withInputs q).latched = s.latched := rfl
@[simp] theorem State.withInputs_mem (q : List Input) : (s.withInputs q).mem = s.mem := rfl
@[simp] theorem State.withInputs_resetLine (q : List Input) : (s.withInputs q).resetLine = s.resetLine := rfl
@[simp] theorem State.withInputs_platform (q : List Input) : (s.withInputs q).platform = s.platform := rfl
@[simp] theorem State.withInputs_unobserved (q : List Input) : (s.withInputs q).unobserved = s.unobserved := rfl
@[simp] theorem State.withInputs_hostDirty (q : List Input) : (s.withInputs q).hostDirty = s.hostDirty := rfl
@[simp] theorem State.withInputs_hostStale (q : List Input) : (s.withInputs q).hostStale = s.hostStale := rfl
@[simp] theorem State.withInputs_inputs (q : List Input) : (s.withInputs q).inputs = q := rfl
@[simp] theorem State.withInputs_readData (q : List Input) : (s.withInputs q).readData = s.readData := rfl
@[simp] theorem State.withInputs_draws (q : List Input) : (s.withInputs q).draws = s.draws := rfl

@[simp] theorem State.withMem_cmd (m : Memory) : (s.withMem m).cmd = s.cmd := rfl
@[simp] theorem State.withMem_phase (m : Memory) : (s.withMem m).phase = s.phase := rfl
@[simp] theorem State.withMem_done (m : Memory) : (s.withMem m).done = s.done := rfl
@[simp] theorem State.withMem_err (m : Memory) : (s.withMem m).err = s.err := rfl
@[simp] theorem State.withMem_ovr (m : Memory) : (s.withMem m).ovr = s.ovr := rfl
@[simp] theorem State.withMem_errcode (m : Memory) : (s.withMem m).errcode = s.errcode := rfl
@[simp] theorem State.withMem_errval (m : Memory) : (s.withMem m).errval = s.errval := rfl
@[simp] theorem State.withMem_srcAddr (m : Memory) : (s.withMem m).srcAddr = s.srcAddr := rfl
@[simp] theorem State.withMem_srcLen (m : Memory) : (s.withMem m).srcLen = s.srcLen := rfl
@[simp] theorem State.withMem_dst0Addr (m : Memory) : (s.withMem m).dst0Addr = s.dst0Addr := rfl
@[simp] theorem State.withMem_dst1Addr (m : Memory) : (s.withMem m).dst1Addr = s.dst1Addr := rfl
@[simp] theorem State.withMem_outCount (m : Memory) : (s.withMem m).outCount = s.outCount := rfl
@[simp] theorem State.withMem_doneIe (m : Memory) : (s.withMem m).doneIe = s.doneIe := rfl
@[simp] theorem State.withMem_latched (m : Memory) : (s.withMem m).latched = s.latched := rfl
@[simp] theorem State.withMem_mem (m : Memory) : (s.withMem m).mem = m := rfl
@[simp] theorem State.withMem_resetLine (m : Memory) : (s.withMem m).resetLine = s.resetLine := rfl
@[simp] theorem State.withMem_platform (m : Memory) : (s.withMem m).platform = s.platform := rfl
@[simp] theorem State.withMem_unobserved (m : Memory) : (s.withMem m).unobserved = s.unobserved := rfl
@[simp] theorem State.withMem_hostDirty (m : Memory) : (s.withMem m).hostDirty = s.hostDirty := rfl
@[simp] theorem State.withMem_hostStale (m : Memory) : (s.withMem m).hostStale = s.hostStale := rfl
@[simp] theorem State.withMem_inputs (m : Memory) : (s.withMem m).inputs = s.inputs := rfl
@[simp] theorem State.withMem_readData (m : Memory) : (s.withMem m).readData = s.readData := rfl
@[simp] theorem State.withMem_draws (m : Memory) : (s.withMem m).draws = s.draws := rfl

@[simp] theorem State.useDraws_cmd (n : Nat) : (s.useDraws n).cmd = s.cmd := rfl
@[simp] theorem State.useDraws_phase (n : Nat) : (s.useDraws n).phase = s.phase := rfl
@[simp] theorem State.useDraws_done (n : Nat) : (s.useDraws n).done = s.done := rfl
@[simp] theorem State.useDraws_err (n : Nat) : (s.useDraws n).err = s.err := rfl
@[simp] theorem State.useDraws_ovr (n : Nat) : (s.useDraws n).ovr = s.ovr := rfl
@[simp] theorem State.useDraws_errcode (n : Nat) : (s.useDraws n).errcode = s.errcode := rfl
@[simp] theorem State.useDraws_errval (n : Nat) : (s.useDraws n).errval = s.errval := rfl
@[simp] theorem State.useDraws_srcAddr (n : Nat) : (s.useDraws n).srcAddr = s.srcAddr := rfl
@[simp] theorem State.useDraws_srcLen (n : Nat) : (s.useDraws n).srcLen = s.srcLen := rfl
@[simp] theorem State.useDraws_dst0Addr (n : Nat) : (s.useDraws n).dst0Addr = s.dst0Addr := rfl
@[simp] theorem State.useDraws_dst1Addr (n : Nat) : (s.useDraws n).dst1Addr = s.dst1Addr := rfl
@[simp] theorem State.useDraws_outCount (n : Nat) : (s.useDraws n).outCount = s.outCount := rfl
@[simp] theorem State.useDraws_doneIe (n : Nat) : (s.useDraws n).doneIe = s.doneIe := rfl
@[simp] theorem State.useDraws_latched (n : Nat) : (s.useDraws n).latched = s.latched := rfl
@[simp] theorem State.useDraws_mem (n : Nat) : (s.useDraws n).mem = s.mem := rfl
@[simp] theorem State.useDraws_resetLine (n : Nat) : (s.useDraws n).resetLine = s.resetLine := rfl
@[simp] theorem State.useDraws_platform (n : Nat) : (s.useDraws n).platform = s.platform := rfl
@[simp] theorem State.useDraws_unobserved (n : Nat) : (s.useDraws n).unobserved = s.unobserved := rfl
@[simp] theorem State.useDraws_hostDirty (n : Nat) : (s.useDraws n).hostDirty = s.hostDirty := rfl
@[simp] theorem State.useDraws_hostStale (n : Nat) : (s.useDraws n).hostStale = s.hostStale := rfl
@[simp] theorem State.useDraws_inputs (n : Nat) : (s.useDraws n).inputs = s.inputs := rfl
@[simp] theorem State.useDraws_readData (n : Nat) : (s.useDraws n).readData = s.readData := rfl
@[simp] theorem State.useDraws_draws (n : Nat) : (s.useDraws n).draws = s.draws + n := rfl

@[simp] theorem State.withMarks_cmd (dirty stale : List Addr) : (s.withMarks dirty stale).cmd = s.cmd := rfl
@[simp] theorem State.withMarks_phase (dirty stale : List Addr) : (s.withMarks dirty stale).phase = s.phase := rfl
@[simp] theorem State.withMarks_done (dirty stale : List Addr) : (s.withMarks dirty stale).done = s.done := rfl
@[simp] theorem State.withMarks_err (dirty stale : List Addr) : (s.withMarks dirty stale).err = s.err := rfl
@[simp] theorem State.withMarks_ovr (dirty stale : List Addr) : (s.withMarks dirty stale).ovr = s.ovr := rfl
@[simp] theorem State.withMarks_errcode (dirty stale : List Addr) :
    (s.withMarks dirty stale).errcode = s.errcode := rfl
@[simp] theorem State.withMarks_errval (dirty stale : List Addr) : (s.withMarks dirty stale).errval = s.errval := rfl
@[simp] theorem State.withMarks_srcAddr (dirty stale : List Addr) :
    (s.withMarks dirty stale).srcAddr = s.srcAddr := rfl
@[simp] theorem State.withMarks_srcLen (dirty stale : List Addr) : (s.withMarks dirty stale).srcLen = s.srcLen := rfl
@[simp] theorem State.withMarks_dst0Addr (dirty stale : List Addr) :
    (s.withMarks dirty stale).dst0Addr = s.dst0Addr := rfl
@[simp] theorem State.withMarks_dst1Addr (dirty stale : List Addr) :
    (s.withMarks dirty stale).dst1Addr = s.dst1Addr := rfl
@[simp] theorem State.withMarks_outCount (dirty stale : List Addr) :
    (s.withMarks dirty stale).outCount = s.outCount := rfl
@[simp] theorem State.withMarks_doneIe (dirty stale : List Addr) : (s.withMarks dirty stale).doneIe = s.doneIe := rfl
@[simp] theorem State.withMarks_latched (dirty stale : List Addr) :
    (s.withMarks dirty stale).latched = s.latched := rfl
@[simp] theorem State.withMarks_mem (dirty stale : List Addr) : (s.withMarks dirty stale).mem = s.mem := rfl
@[simp] theorem State.withMarks_resetLine (dirty stale : List Addr) :
    (s.withMarks dirty stale).resetLine = s.resetLine := rfl
@[simp] theorem State.withMarks_platform (dirty stale : List Addr) :
    (s.withMarks dirty stale).platform = s.platform := rfl
@[simp] theorem State.withMarks_unobserved (dirty stale : List Addr) :
    (s.withMarks dirty stale).unobserved = s.unobserved := rfl
@[simp] theorem State.withMarks_hostDirty (dirty stale : List Addr) :
    (s.withMarks dirty stale).hostDirty = dirty := rfl
@[simp] theorem State.withMarks_hostStale (dirty stale : List Addr) :
    (s.withMarks dirty stale).hostStale = stale := rfl
@[simp] theorem State.withMarks_inputs (dirty stale : List Addr) : (s.withMarks dirty stale).inputs = s.inputs := rfl
@[simp] theorem State.withMarks_readData (dirty stale : List Addr) :
    (s.withMarks dirty stale).readData = s.readData := rfl
@[simp] theorem State.withMarks_draws (dirty stale : List Addr) : (s.withMarks dirty stale).draws = s.draws := rfl

@[simp] theorem State.resetRegs_cmd : s.resetRegs.cmd = 0#32 := rfl
@[simp] theorem State.resetRegs_phase : s.resetRegs.phase = .idle := rfl
@[simp] theorem State.resetRegs_done : s.resetRegs.done = false := rfl
@[simp] theorem State.resetRegs_err : s.resetRegs.err = false := rfl
@[simp] theorem State.resetRegs_ovr : s.resetRegs.ovr = false := rfl
@[simp] theorem State.resetRegs_errcode : s.resetRegs.errcode = .noError := rfl
@[simp] theorem State.resetRegs_errval : s.resetRegs.errval = 0#32 := rfl
@[simp] theorem State.resetRegs_srcAddr : s.resetRegs.srcAddr = 0#32 := rfl
@[simp] theorem State.resetRegs_srcLen : s.resetRegs.srcLen = 0#32 := rfl
@[simp] theorem State.resetRegs_dst0Addr : s.resetRegs.dst0Addr = 0#32 := rfl
@[simp] theorem State.resetRegs_dst1Addr : s.resetRegs.dst1Addr = 0#32 := rfl
@[simp] theorem State.resetRegs_outCount : s.resetRegs.outCount = 0#32 := rfl
@[simp] theorem State.resetRegs_doneIe : s.resetRegs.doneIe = false := rfl
@[simp] theorem State.resetRegs_latched : s.resetRegs.latched = Latched.blank := rfl
@[simp] theorem State.resetRegs_mem : s.resetRegs.mem = s.mem := rfl
@[simp] theorem State.resetRegs_resetLine : s.resetRegs.resetLine = true := rfl
@[simp] theorem State.resetRegs_platform : s.resetRegs.platform = s.platform := rfl
@[simp] theorem State.resetRegs_unobserved : s.resetRegs.unobserved = [] := rfl
@[simp] theorem State.resetRegs_hostDirty : s.resetRegs.hostDirty = s.hostDirty := rfl
@[simp] theorem State.resetRegs_hostStale : s.resetRegs.hostStale = s.hostStale := rfl
@[simp] theorem State.resetRegs_inputs : s.resetRegs.inputs = s.inputs := rfl
@[simp] theorem State.resetRegs_readData : s.resetRegs.readData = s.readData := rfl
@[simp] theorem State.resetRegs_draws : s.resetRegs.draws = s.draws := rfl

@[simp] theorem State.abandon_cmd (p : Plan) : (s.abandon p).cmd = s.cmd := rfl
@[simp] theorem State.abandon_phase (p : Plan) : (s.abandon p).phase = s.phase := rfl
@[simp] theorem State.abandon_done (p : Plan) : (s.abandon p).done = s.done := rfl
@[simp] theorem State.abandon_err (p : Plan) : (s.abandon p).err = s.err := rfl
@[simp] theorem State.abandon_ovr (p : Plan) : (s.abandon p).ovr = s.ovr := rfl
@[simp] theorem State.abandon_errcode (p : Plan) : (s.abandon p).errcode = s.errcode := rfl
@[simp] theorem State.abandon_errval (p : Plan) : (s.abandon p).errval = s.errval := rfl
@[simp] theorem State.abandon_srcAddr (p : Plan) : (s.abandon p).srcAddr = s.srcAddr := rfl
@[simp] theorem State.abandon_srcLen (p : Plan) : (s.abandon p).srcLen = s.srcLen := rfl
@[simp] theorem State.abandon_dst0Addr (p : Plan) : (s.abandon p).dst0Addr = s.dst0Addr := rfl
@[simp] theorem State.abandon_dst1Addr (p : Plan) : (s.abandon p).dst1Addr = s.dst1Addr := rfl
@[simp] theorem State.abandon_outCount (p : Plan) : (s.abandon p).outCount = s.outCount := rfl
@[simp] theorem State.abandon_doneIe (p : Plan) : (s.abandon p).doneIe = s.doneIe := rfl
@[simp] theorem State.abandon_latched (p : Plan) : (s.abandon p).latched = s.latched := rfl
@[simp] theorem State.abandon_mem (p : Plan) :
    (s.abandon p).mem = scatterStores s.platform s.draws p.stores s.mem := rfl
@[simp] theorem State.abandon_resetLine (p : Plan) : (s.abandon p).resetLine = s.resetLine := rfl
@[simp] theorem State.abandon_platform (p : Plan) : (s.abandon p).platform = s.platform := rfl
@[simp] theorem State.abandon_unobserved (p : Plan) : (s.abandon p).unobserved = s.unobserved := rfl
@[simp] theorem State.abandon_hostDirty (p : Plan) :
    (s.abandon p).hostDirty = s.hostDirty.filter fun a => !(p.stores.any fun st => st.addr == a) := rfl
@[simp] theorem State.abandon_hostStale (p : Plan) :
    (s.abandon p).hostStale = if s.platform.coherent then s.hostStale else p.stores.map (·.addr) ++ s.hostStale := rfl
@[simp] theorem State.abandon_inputs (p : Plan) : (s.abandon p).inputs = s.inputs := rfl
@[simp] theorem State.abandon_readData (p : Plan) : (s.abandon p).readData = s.readData := rfl
@[simp] theorem State.abandon_draws (p : Plan) : (s.abandon p).draws = s.draws + p.stores.length := rfl

@[simp] theorem State.releaseReset_cmd : s.releaseReset.cmd = s.cmd := rfl
@[simp] theorem State.releaseReset_phase : s.releaseReset.phase = s.phase := rfl
@[simp] theorem State.releaseReset_done : s.releaseReset.done = s.done := rfl
@[simp] theorem State.releaseReset_err : s.releaseReset.err = s.err := rfl
@[simp] theorem State.releaseReset_ovr : s.releaseReset.ovr = s.ovr := rfl
@[simp] theorem State.releaseReset_errcode : s.releaseReset.errcode = s.errcode := rfl
@[simp] theorem State.releaseReset_errval : s.releaseReset.errval = s.errval := rfl
@[simp] theorem State.releaseReset_srcAddr : s.releaseReset.srcAddr = s.srcAddr := rfl
@[simp] theorem State.releaseReset_srcLen : s.releaseReset.srcLen = s.srcLen := rfl
@[simp] theorem State.releaseReset_dst0Addr : s.releaseReset.dst0Addr = s.dst0Addr := rfl
@[simp] theorem State.releaseReset_dst1Addr : s.releaseReset.dst1Addr = s.dst1Addr := rfl
@[simp] theorem State.releaseReset_outCount : s.releaseReset.outCount = s.outCount := rfl
@[simp] theorem State.releaseReset_doneIe : s.releaseReset.doneIe = s.doneIe := rfl
@[simp] theorem State.releaseReset_latched : s.releaseReset.latched = s.latched := rfl
@[simp] theorem State.releaseReset_mem : s.releaseReset.mem = s.mem := rfl
@[simp] theorem State.releaseReset_resetLine : s.releaseReset.resetLine = false := rfl
@[simp] theorem State.releaseReset_platform : s.releaseReset.platform = s.platform := rfl
@[simp] theorem State.releaseReset_unobserved : s.releaseReset.unobserved = s.unobserved := rfl
@[simp] theorem State.releaseReset_hostDirty : s.releaseReset.hostDirty = s.hostDirty := rfl
@[simp] theorem State.releaseReset_hostStale : s.releaseReset.hostStale = s.hostStale := rfl
@[simp] theorem State.releaseReset_inputs : s.releaseReset.inputs = s.inputs := rfl
@[simp] theorem State.releaseReset_readData : s.releaseReset.readData = s.readData := rfl
@[simp] theorem State.releaseReset_draws : s.releaseReset.draws = s.draws := rfl

@[simp] theorem State.withSilent_cmd (rs : List Range) : (s.withSilent rs).cmd = s.cmd := rfl
@[simp] theorem State.withSilent_phase (rs : List Range) : (s.withSilent rs).phase = s.phase := rfl
@[simp] theorem State.withSilent_done (rs : List Range) : (s.withSilent rs).done = s.done := rfl
@[simp] theorem State.withSilent_err (rs : List Range) : (s.withSilent rs).err = s.err := rfl
@[simp] theorem State.withSilent_ovr (rs : List Range) : (s.withSilent rs).ovr = s.ovr := rfl
@[simp] theorem State.withSilent_errcode (rs : List Range) : (s.withSilent rs).errcode = s.errcode := rfl
@[simp] theorem State.withSilent_errval (rs : List Range) : (s.withSilent rs).errval = s.errval := rfl
@[simp] theorem State.withSilent_srcAddr (rs : List Range) : (s.withSilent rs).srcAddr = s.srcAddr := rfl
@[simp] theorem State.withSilent_srcLen (rs : List Range) : (s.withSilent rs).srcLen = s.srcLen := rfl
@[simp] theorem State.withSilent_dst0Addr (rs : List Range) : (s.withSilent rs).dst0Addr = s.dst0Addr := rfl
@[simp] theorem State.withSilent_dst1Addr (rs : List Range) : (s.withSilent rs).dst1Addr = s.dst1Addr := rfl
@[simp] theorem State.withSilent_outCount (rs : List Range) : (s.withSilent rs).outCount = s.outCount := rfl
@[simp] theorem State.withSilent_doneIe (rs : List Range) : (s.withSilent rs).doneIe = s.doneIe := rfl
@[simp] theorem State.withSilent_latched (rs : List Range) : (s.withSilent rs).latched = s.latched := rfl
@[simp] theorem State.withSilent_mem (rs : List Range) : (s.withSilent rs).mem = s.mem := rfl
@[simp] theorem State.withSilent_resetLine (rs : List Range) : (s.withSilent rs).resetLine = s.resetLine := rfl
@[simp] theorem State.withSilent_platform (rs : List Range) :
    (s.withSilent rs).platform = { s.platform with silent := rs } := rfl
@[simp] theorem State.withSilent_unobserved (rs : List Range) : (s.withSilent rs).unobserved = s.unobserved := rfl
@[simp] theorem State.withSilent_hostDirty (rs : List Range) : (s.withSilent rs).hostDirty = s.hostDirty := rfl
@[simp] theorem State.withSilent_hostStale (rs : List Range) : (s.withSilent rs).hostStale = s.hostStale := rfl
@[simp] theorem State.withSilent_inputs (rs : List Range) : (s.withSilent rs).inputs = s.inputs := rfl
@[simp] theorem State.withSilent_readData (rs : List Range) : (s.withSilent rs).readData = s.readData := rfl
@[simp] theorem State.withSilent_draws (rs : List Range) : (s.withSilent rs).draws = s.draws := rfl

end Sys2Proof.Machine
end

