-- ==== Sys2Proof/Laws/Plan.lean ====
section
/-! SUPPORT. What the shared operations can do, said once: the contract, the engine's completion, acceptance, the
meanings, and one step. -/

namespace Sys2Proof.Machine

open Sys2Proof

/-! The contract -/

theorem any_apart_false {rs : List Range} {q : Range} :
    (rs.any fun r => !(rangeApart r q)) = false ↔ ∀ a, (rs.any fun r => rangeHas r a) = true → rangeHas q a = false := by
  simp only [List.any_eq_false, Bool.not_eq_true, Bool.not_eq_false', List.any_eq_true]
  constructor
  · rintro h a ⟨r, hr, ha⟩
    have := rangeApart_disjoint (h r hr) a
    simpa [ha] using this
  · intro h r hr
    exact rangeApart_of_disjoint fun a ⟨h1, h2⟩ => by simp [h a ⟨r, hr, h1⟩] at h2

/-- The contract of 20_memory.md rule R68, range by range and address by address. -/
theorem contractBreach_eq_none {s : State} {p : Plan} : contractBreach s p = none ↔ InContract s p := by
  unfold contractBreach
  have hw := any_apart_false (rs := planRanges p) (q := windowRange s.platform)
  have hd : ((planRanges p).any fun r => s.platform.devices.any fun d => !(rangeApart r d)) = false ↔
      ∀ a, planHas p a = true → ∀ d ∈ s.platform.devices, rangeHas d a = false := by
    rw [← Bool.not_eq_true, List.any_eq_true]
    constructor
    · intro h a ha d hd
      refine (any_apart_false (rs := planRanges p) (q := d)).1 ?_ a ha
      rw [← Bool.not_eq_true, List.any_eq_true]
      rintro ⟨r, hr, h2⟩
      exact h ⟨r, hr, List.any_eq_true.2 ⟨d, hd, h2⟩⟩
    · rintro h ⟨r, hr, h2⟩
      obtain ⟨d, hd, h3⟩ := List.any_eq_true.1 h2
      have := (any_apart_false (rs := planRanges p) (q := d)).2 fun a ha => h a ha d hd
      rw [← Bool.not_eq_true, List.any_eq_true] at this
      exact this ⟨r, hr, h3⟩
  have ha : planApart p = true ↔ (∀ w ∈ p.writes, w.len < 2 ^ 32) ∧
      (p.writes.Pairwise fun w v => ∀ a, ¬(rangeHas w a = true ∧ rangeHas v a = true)) ∧
      ∀ a, ¬(planReads p a = true ∧ planWrites p a = true) := by
    have e : ∀ w v : Range, rangeApart w v = true ↔ ∀ a, ¬(rangeHas w a = true ∧ rangeHas v a = true) :=
      fun w v => ⟨rangeApart_disjoint, rangeApart_of_disjoint⟩
    simp only [planApart, Bool.and_eq_true, List.all_eq_true, decide_eq_true_eq, e, planReads, planWrites,
      List.any_eq_true, and_assoc]
    refine and_congr_right fun _ => and_congr_right fun _ => ?_
    constructor
    · rintro h a ⟨⟨r, hr, h1⟩, w, hw, h2⟩
      exact h w hw r hr a ⟨h2, h1⟩
    · rintro h w hw r hr a ⟨h1, h2⟩
      exact h a ⟨⟨r, hr, h2⟩, w, hw, h1⟩
  have hc : (!s.platform.coherent && s.hostDirty.any fun a => p.reads.any fun r => rangeHas r a) = false ↔
      (s.platform.coherent = true ∨ ∀ a ∈ s.hostDirty, planReads p a = false) := by
    cases s.platform.coherent <;> simp [planReads]
  constructor
  · intro h
    split at h; · simp at h
    next h1 =>
    split at h; · simp at h
    next h2 =>
    split at h; · simp at h
    next h3 =>
    split at h; · simp at h
    next h4 =>
    obtain ⟨a1, a2, a3⟩ := ha.1 (by simpa using h2)
    exact ⟨a1, a2, a3, hw.1 (by simpa using h1), hd.1 (by simpa using h3), hc.1 (by simpa using h4)⟩
  · intro h
    rw [if_neg, if_neg, if_neg, if_neg]
    · rw [hc.2 h.writtenBack]; simp
    · rw [hd.2 h.noDevice]; simp
    · rw [ha.2 ⟨h.writesShort, h.writesApart, h.readsApart⟩]; simp
    · rw [hw.2 h.noWindow]; simp

/-- No byte of the footprint is silent exactly when every byte of it responds. -/
theorem mem_silentBytes {pf : Platform} {p : Plan} {a : Addr} :
    a ∈ silentBytes pf p ↔ planHas p a = true ∧ responds pf a = false := by
  simp only [silentBytes, List.mem_flatMap, List.mem_filter, rangeAddrs, List.mem_map, List.mem_range, planHas,
    List.any_eq_true, Bool.not_eq_true']
  constructor
  · rintro ⟨r, hr, ⟨k, hk, rfl⟩, h⟩
    refine ⟨⟨r, hr, ?_⟩, h⟩
    rw [rangeHas_eq_true, addrPlus_sub, BitVec.toNat_ofNat]
    exact (Nat.mod_le _ _).trans_lt hk
  · rintro ⟨⟨r, hr, ha⟩, h⟩
    obtain ⟨k, hk, -, e⟩ := (rangeHas_iff r a).1 ha
    exact ⟨r, hr, ⟨k, hk, e.symm⟩, h⟩

/-! The engine's completion -/

/-- Everything the completion of a command can answer. -/
theorem finish_cases (s : State) (p : Plan) :
    (∃ r, contractBreach s p = some r ∧ s.finish p = .refused r) ∨
    (InContract s p ∧ (∀ a, planHas p a = true → responds s.platform a = true) ∧ s.finish p = .next (s.completeOk p)) ∨
    (∃ a as, InContract s p ∧ silentBytes s.platform p = a :: as ∧ s.finish p = .next (s.completeBusError p a as)) := by
  unfold State.finish
  cases hb : contractBreach s p with
  | some r => exact .inl ⟨r, rfl, rfl⟩
  | none =>
    have hc := contractBreach_eq_none.1 hb
    cases hs : silentBytes s.platform p with
    | nil =>
      refine .inr (.inl ⟨hc, fun a ha => ?_, rfl⟩)
      cases hr : responds s.platform a with
      | true => rfl
      | false => simpa [hs] using mem_silentBytes.2 ⟨ha, hr⟩
    | cons a as => exact .inr (.inr ⟨a, as, hc, rfl, rfl⟩)

/-- If the completion answers a next state, it is the successful one or the BusError one. -/
theorem finish_next {s t : State} {p : Plan} (h : s.finish p = .next t) :
    t = s.completeOk p ∨ ∃ a as, silentBytes s.platform p = a :: as ∧ t = s.completeBusError p a as := by
  rcases finish_cases s p with ⟨r, -, e⟩ | ⟨-, -, e⟩ | ⟨a, as, -, hs, e⟩ <;> rw [e] at h
  · cases h
  · cases h; exact .inl rfl
  · cases h; exact .inr ⟨a, as, hs, rfl⟩

/-- An engine that is ready completes successfully. -/
theorem EngineReady.finish_eq {s : State} {p : Plan} (h : EngineReady s p) : s.finish p = .next (s.completeOk p) := by
  rcases finish_cases s p with ⟨r, e, -⟩ | ⟨-, -, e⟩ | ⟨a, as, -, hs, -⟩
  · simp [contractBreach_eq_none.2 h.inContract] at e
  · exact e
  · have := mem_silentBytes.1 (hs ▸ List.mem_cons_self : a ∈ silentBytes s.platform p)
    simp [h.answered a this.1] at this

/-- The two checks of the engine's step are the condition of a successful completion. -/
theorem EngineReady.of_checks {s : State} {p : Plan} (h1 : s.phase = .running) (h2 : contractBreach s p = none)
    (h3 : silentBytes s.platform p = []) : EngineReady s p := by
  refine ⟨h1, contractBreach_eq_none.1 h2, fun a ha => ?_⟩
  cases hr : responds s.platform a with
  | true => rfl
  | false => simpa [h3] using mem_silentBytes.2 ⟨ha, hr⟩

theorem completeOk_completedFrom (s : State) (p : Plan) : CompletedFrom s (s.completeOk p) p.count := rfl

/-- A running engine's meaning of any command is the completion of its plan. -/
theorem exec_running (i : Instr) {s : State} (h : s.phase = .running) :
    exec i s = s.finish (planOf i s.latched s.mem s.platform) := by
  cases i <;> simp [exec, execConv, execSplit8, execSplit16, execFnorm, planOf, h]

/-! Acceptance -/

/-- The check that acceptance makes of a command (60_exceptions.md rule R161). -/
def checkOf : Instr → Option (ErrCode × Word)
  | .conv bps _ => convCheck bps
  | .split8 ch => splitCheck ch
  | .split16 ch _ => splitCheck ch
  | .fnorm ch => fnormCheck ch

theorem checkOf_eq_none (i : Instr) : checkOf i = none ↔ i.wellFormed = true := by
  cases i <;>
    simp [checkOf, convCheck, splitCheck, fnormCheck, Instr.wellFormed, bpsLegal, splitChLegal, fnormChLegal] <;> tauto

/-- An error at acceptance is never recorded as no error. -/
theorem checkOf_code {i : Instr} {c : ErrCode × Word} (h : checkOf i = some c) : c.1 ≠ .noError := by
  cases i <;> simp only [checkOf, convCheck, splitCheck, fnormCheck] at h <;> split at h <;> cases h <;> simp

/-- Everything an idle engine's meaning of a command can answer: an error record, or the command latched as itself. -/
theorem exec_idle (i : Instr) {s : State} (h : s.phase = .idle) :
    (∃ code val, checkOf i = some (code, val) ∧ exec i s = .next (s.clearRecord.completeError code val)) ∨
    (checkOf i = none ∧ ∃ op be bps ch, exec i s = .next (s.clearRecord.latch op be bps ch) ∧
      latchedInstr (s.clearRecord.latch op be bps ch).latched = i) := by
  have aux : ∀ (op : Op) (be : Bool) (bps : BitVec 8) (ch : BitVec 16),
      exec i s = .next (s.accept (checkOf i) op be bps ch) →
      latchedInstr (s.clearRecord.latch op be bps ch).latched = i →
      (∃ code val, checkOf i = some (code, val) ∧ exec i s = .next (s.clearRecord.completeError code val)) ∨
      (checkOf i = none ∧ ∃ op be bps ch, exec i s = .next (s.clearRecord.latch op be bps ch) ∧
        latchedInstr (s.clearRecord.latch op be bps ch).latched = i) := by
    intro op be bps ch he hl
    cases hc : checkOf i with
    | none => exact .inr ⟨rfl, op, be, bps, ch, by simp [he, hc, State.accept], hl⟩
    | some c => exact .inl ⟨c.1, c.2, rfl, by simp [he, hc, State.accept]⟩
  cases i with
  | conv bps be => exact aux .conv be bps (chField s.cmd) (by simp [exec, execConv, h, checkOf]) rfl
  | split8 ch =>
    exact aux .split8 (beField s.cmd) (bpsField s.cmd) ch (by simp [exec, execSplit8, h, checkOf]) rfl
  | split16 ch be => exact aux .split16 be (bpsField s.cmd) ch (by simp [exec, execSplit16, h, checkOf]) rfl
  | fnorm ch => exact aux .fnorm (beField s.cmd) (bpsField s.cmd) ch (by simp [exec, execFnorm, h, checkOf]) rfl

/-! One step -/

/-- Everything the engine's step can do. -/
theorem engineStep_cases (s : State) :
    (s.phase = .running ∧ s.resetLine = false ∧ s.engineStep = s.finish s.runningPlan) ∨
    ((s.phase = .idle ∨ s.resetLine = true) ∧ s.engineStep = .next s) := by
  unfold State.engineStep
  by_cases h : s.phase = .running ∧ s.resetLine = false
  · exact .inl ⟨h.1, h.2, by rw [if_pos h, exec_running _ h.1]; rfl⟩
  · refine .inr ⟨?_, by rw [if_neg h]⟩
    cases hp : s.phase with
    | idle => exact .inl rfl
    | running => exact .inr (by simpa [hp] using h)

/-- Which input a step serves. -/
theorem step_cases (s : State) :
    (step s = s.engineStep ∧ (s.inputs = [] ∨ ∃ rest, s.inputs = .waitDone :: rest ∧ s.done = false)) ∨
    (∃ e rest, s.inputs = e :: rest ∧ step s = (s.withInputs rest).serve e) := by
  unfold step State.advance
  cases hi : s.inputs with
  | nil => exact .inl ⟨rfl, .inl rfl⟩
  | cons e rest =>
    cases e
    case waitDone =>
      cases hd : s.done with
      | false => exact .inl ⟨by simp, .inr ⟨rest, rfl, rfl⟩⟩
      | true => exact .inr ⟨_, _, rfl, by simp⟩
    all_goals exact .inr ⟨_, _, rfl, rfl⟩

end Sys2Proof.Machine
end

