-- ==== Sys2Proof/Laws/Stores.lean ====
section
/-! SUPPORT. The destination bytes of a plan: they lie in its write ranges, no two name one byte, they cover the write
ranges, and they are taken from its read ranges. -/

namespace Sys2Proof.Machine

open Sys2Proof

/-! Addresses -/

theorem addrPlus_addrPlus (a : Addr) (j k : Nat) : addrPlus (addrPlus a j) k = addrPlus a (j + k) := by
  simp only [addrPlus, BitVec.add_assoc, BitVec.ofNat_add]

@[simp] theorem addrPlus_zero (a : Addr) : addrPlus a 0 = a := by simp [addrPlus]

theorem addrPlus_inj {a : Addr} {j k : Nat} (hj : j < 2 ^ 32) (hk : k < 2 ^ 32) (h : addrPlus a j = addrPlus a k) :
    j = k := by
  have := congrArg (fun x => (x - a).toNat) h
  simp only [addrPlus_sub, BitVec.toNat_ofNat] at this
  rwa [Nat.mod_eq_of_lt hj, Nat.mod_eq_of_lt hk] at this

/-- An offset below the length is inside the range, also where the range wraps or covers everything. -/
theorem rangeHas_offset (b : Addr) {k n : Nat} (h : k < n) : rangeHas ⟨b, n⟩ (addrPlus b k) = true := by
  rw [rangeHas_eq_true, addrPlus_sub, BitVec.toNat_ofNat]
  exact (Nat.mod_le _ _).trans_lt h

theorem rangeHas_elim {b : Addr} {n : Nat} {a : Addr} (h : rangeHas ⟨b, n⟩ a = true) :
    ∃ k, k < n ∧ k < 2 ^ 32 ∧ a = addrPlus b k := (rangeHas_iff _ _).1 h

/-! Blocks: element f of buffer c occupies `w` bytes at offset `w * f` -/

/-- The addresses of `w` consecutive bytes. -/
def blockAddrs (a : Addr) (w : Nat) : List Addr := (List.range w).map (addrPlus a)

theorem storeSample_addrs (d : Addr) (x : Sample) : (storeSample d x).map (·.addr) = blockAddrs d 2 := by
  simp [storeSample, blockAddrs, List.range_succ]

theorem storeFloat_addrs (d : Addr) (v : Word) (l : List Addr) : (storeFloat d v l).map (·.addr) = blockAddrs d 4 := by
  simp [storeFloat, blockAddrs, List.range_succ]

/-- The addresses of `n` elements of `w` bytes in each of the buffers `base c`, `c < k`. -/
def planarAddrs (base : Nat → Addr) (w n k : Nat) : List Addr :=
  (List.range n).flatMap fun f => (List.range k).flatMap fun c => blockAddrs (addrPlus (base c) (w * f)) w

theorem mem_planarAddrs {base : Nat → Addr} {w n k : Nat} {a : Addr} :
    a ∈ planarAddrs base w n k ↔ ∃ f < n, ∃ c < k, ∃ j < w, a = addrPlus (base c) (w * f + j) := by
  simp only [planarAddrs, blockAddrs, List.mem_flatMap, List.mem_range, List.mem_map, addrPlus_addrPlus]
  exact ⟨fun ⟨f, hf, c, hc, j, hj, e⟩ => ⟨f, hf, c, hc, j, hj, e.symm⟩,
    fun ⟨f, hf, c, hc, j, hj, e⟩ => ⟨f, hf, c, hc, j, hj, e.symm⟩⟩

theorem block_offset_lt {w n f j : Nat} (hf : f < n) (hj : j < w) : w * f + j < w * n := by
  have : w * (f + 1) ≤ w * n := Nat.mul_le_mul_left w hf
  rw [Nat.mul_succ] at this
  omega

/-- The planar addresses are exactly the buffers' ranges. -/
theorem mem_planarAddrs_iff_range {base : Nat → Addr} {w n k : Nat} {a : Addr} :
    a ∈ planarAddrs base w n k ↔ ∃ c < k, rangeHas ⟨base c, w * n⟩ a = true := by
  rw [mem_planarAddrs]
  constructor
  · rintro ⟨f, hf, c, hc, j, hj, rfl⟩
    exact ⟨c, hc, rangeHas_offset _ (block_offset_lt hf hj)⟩
  · rintro ⟨c, hc, h⟩
    obtain ⟨o, ho, -, rfl⟩ := rangeHas_elim h
    have hw : 0 < w := Nat.pos_of_ne_zero fun h0 => by simp [h0] at ho
    exact ⟨o / w, Nat.div_lt_of_lt_mul ho, c, hc, o % w, Nat.mod_lt _ hw, by rw [Nat.div_add_mod]⟩

/-- No two planar elements share a byte where the buffers are short and disjoint. -/
theorem planarAddrs_nodup {base : Nat → Addr} {w n k : Nat} (hs : w * n < 2 ^ 32)
    (hd : ∀ c < k, ∀ e < k, c ≠ e → ∀ a, ¬(rangeHas ⟨base c, w * n⟩ a = true ∧ rangeHas ⟨base e, w * n⟩ a = true)) :
    (planarAddrs base w n k).Nodup := by
  have inj : ∀ f < n, ∀ g < n, ∀ j < w, ∀ i < w, ∀ c < k, ∀ e < k,
      addrPlus (base c) (w * f + j) = addrPlus (base e) (w * g + i) → c = e ∧ w * f + j = w * g + i := by
    intro f hf g hg j hj i hi c hc e he h
    have h1 := block_offset_lt hf hj
    have h2 := block_offset_lt hg hi
    by_cases hce : c = e
    · subst hce
      exact ⟨rfl, addrPlus_inj (by omega) (by omega) h⟩
    · exact absurd ⟨rangeHas_offset _ h1, h ▸ rangeHas_offset _ h2⟩ (hd c hc e he hce _)
  have same : ∀ {f g j i : Nat}, j < w → i < w → w * f + j = w * g + i → f = g ∧ j = i := by
    intro f g j i hj hi h
    have hw : 0 < w := by omega
    have h1 := congrArg (· / w) h
    simp only [Nat.mul_add_div hw, Nat.div_eq_of_lt hj, Nat.div_eq_of_lt hi, Nat.add_zero] at h1
    subst h1
    exact ⟨rfl, by omega⟩
  unfold planarAddrs
  rw [List.nodup_flatMap]
  refine ⟨fun f hf => ?_, ?_⟩
  · rw [List.nodup_flatMap]
    refine ⟨fun c hc => ?_, ?_⟩
    · unfold blockAddrs
      refine List.nodup_range.map_on ?_
      intro j hj i hi h
      simp only [addrPlus_addrPlus] at h
      exact (same (List.mem_range.1 hj) (List.mem_range.1 hi)
        (inj f (List.mem_range.1 hf) f (List.mem_range.1 hf) j (List.mem_range.1 hj) i (List.mem_range.1 hi) c
          (List.mem_range.1 hc) c (List.mem_range.1 hc) h).2).2
    · refine List.Pairwise.imp_of_mem ?_ (List.nodup_range (n := k))
      intro c e hc he hce
      rw [Function.onFun, List.disjoint_left]
      intro a h1 h2
      simp only [blockAddrs, List.mem_map, List.mem_range, addrPlus_addrPlus] at h1 h2
      obtain ⟨j, hj, rfl⟩ := h1
      obtain ⟨i, hi, h⟩ := h2
      exact hce (inj f (List.mem_range.1 hf) f (List.mem_range.1 hf) j hj i hi c (List.mem_range.1 hc) e
        (List.mem_range.1 he) h.symm).1
  · refine List.Pairwise.imp_of_mem ?_ (List.nodup_range (n := n))
    intro f g hf hg hfg
    rw [Function.onFun, List.disjoint_left]
    intro a h1 h2
    simp only [blockAddrs, List.mem_flatMap, List.mem_map, List.mem_range, addrPlus_addrPlus] at h1 h2
    obtain ⟨c, hc, j, hj, rfl⟩ := h1
    obtain ⟨e, he, i, hi, h⟩ := h2
    exact hfg (same hj hi (inj f (List.mem_range.1 hf) g (List.mem_range.1 hg) j hj i hi c hc e he h.symm).2).1

/-! The first byte of a float -/

/-- Bits [7:0] of every float pattern are 0 (42_fnorm.md rule R142), so that byte depends on no source byte. -/
theorem normFloat_low (u : Half) : (normFloat u).extractLsb' 0 8 = 0#8 := by
  unfold normFloat
  split
  · rfl
  · next h =>
    have hm : u.toInt.natAbs < 2 ^ 16 := by have := u.toInt_lt; have := u.le_toInt; omega
    have hk : u.toInt.natAbs.log2 < 16 := (Nat.log2_lt (Int.natAbs_ne_zero.2 h)).2 hm
    apply BitVec.eq_of_getLsbD_eq
    intro i hi
    have h1 : i < 31 := by omega
    have h2 : i < 23 := by omega
    have h3 : i < 23 - u.toInt.natAbs.log2 := by omega
    simp [packFloat, h1, h2, h3]

/-! The stores of each command -/

theorem convPlan_addrs (bps : BitVec 8) (be : Bool) (l : Latched) (m : Memory) :
    (convPlan bps be l m).stores.map (·.addr) = planarAddrs (fun _ => l.dst0) 2 (convCount bps l) 1 := by
  simp [convPlan, planarAddrs, List.map_flatMap, storeSample_addrs]

theorem splitPlan_addrs (w : Nat) (f : Addr → Sample) (ch : BitVec 16) (l : Latched) :
    (splitPlan w f ch l).stores.map (·.addr) = planarAddrs (splitDest l) 2 (splitFrames w ch l) ch.toNat := by
  simp [splitPlan, planarAddrs, List.map_flatMap, storeSample_addrs]

theorem fnormStores_addrs (ch : BitVec 16) (l : Latched) (m : Memory) :
    (fnormStores ch l m).map (·.addr) = planarAddrs (tableEntry l m) 4 (fnormFrames ch l) ch.toNat := by
  simp [fnormStores, planarAddrs, List.map_flatMap, storeFloat_addrs]

/-- The addresses a plan stores to: none where FNORM's table does not respond, else those of its write ranges. -/
theorem stores_addrs_cases (i : Instr) (l : Latched) (m : Memory) (pf : Platform) :
    (planOf i l m pf).stores = [] ∨
    ∃ base w n k, (planOf i l m pf).stores.map (·.addr) = planarAddrs base w n k ∧
      (planOf i l m pf).writes = (List.range k).map fun c => { base := base c, len := w * n } := by
  cases i with
  | conv bps be => exact .inr ⟨_, _, _, _, convPlan_addrs bps be l m, by simp [planOf, convPlan, List.range_succ]⟩
  | split8 ch => exact .inr ⟨_, _, _, _, splitPlan_addrs 1 (sample8 m) ch l, rfl⟩
  | split16 ch be => exact .inr ⟨_, _, _, _, splitPlan_addrs 2 (sample16 be m) ch l, rfl⟩
  | fnorm ch =>
    simp only [planOf, fnormPlan]
    by_cases hf : fnormFrames ch l = 0
    · exact .inl (by simp [hf])
    · simp only [hf, if_false]
      by_cases ha : (List.range ch.toNat).all (entryRead pf l) = true
      · refine .inr ⟨_, _, _, _, by rw [if_pos ha]; exact fnormStores_addrs ch l m, ?_⟩
        rw [List.filter_eq_self.2 (by simpa using ha)]
        rfl
      · exact .inl (by rw [if_neg ha])

/-- A plan stores only inside its write ranges (20_memory.md rule R53). -/
theorem store_in_writes {i : Instr} {l : Latched} {m : Memory} {pf : Platform} {st : Store}
    (h : st ∈ (planOf i l m pf).stores) : planWrites (planOf i l m pf) st.addr = true := by
  rcases stores_addrs_cases i l m pf with e | ⟨base, w, n, k, e, hw⟩
  · simp [e] at h
  · have hm := List.mem_map_of_mem (f := (·.addr)) h
    rw [e, mem_planarAddrs_iff_range] at hm
    obtain ⟨c, hc, hr⟩ := hm
    rw [planWrites, hw]
    exact List.any_eq_true.2 ⟨_, List.mem_map_of_mem (List.mem_range.2 hc), hr⟩

/-- A plan inside the contract stores to no byte twice (20_memory.md rules R58, R68). -/
theorem stores_nodup {s : State} {i : Instr} {l : Latched} {m : Memory} {pf : Platform}
    (h : InContract s (planOf i l m pf)) : ((planOf i l m pf).stores.map (·.addr)).Nodup := by
  rcases stores_addrs_cases i l m pf with e | ⟨base, w, n, k, e, hw⟩
  · simp [e]
  · rw [e]
    by_cases hk : k = 0
    · have : planarAddrs base w n k = [] := List.eq_nil_iff_forall_not_mem.2 fun a ha => by
        obtain ⟨c, hc, -⟩ := mem_planarAddrs_iff_range.1 ha
        omega
      rw [this]
      exact List.nodup_nil
    · have h1 := h.writesShort
      have h2 := h.writesApart
      rw [hw] at h1 h2
      rw [List.pairwise_map] at h2
      refine planarAddrs_nodup (h1 _ (List.mem_map_of_mem (List.mem_range.2 (Nat.pos_of_ne_zero hk)))) ?_
      have h3 := List.pairwise_iff_getElem.1 h2
      have key : ∀ c e, c < e → e < k → ∀ a,
          ¬(rangeHas ⟨base c, w * n⟩ a = true ∧ rangeHas ⟨base e, w * n⟩ a = true) := by
        intro c e hce hek a
        have h4 := h3 c e (by rw [List.length_range]; omega) (by rw [List.length_range]; exact hek) hce
        rw [List.getElem_range, List.getElem_range] at h4
        exact h4 a
      intro c hc e he hce a
      rcases Nat.lt_or_gt_of_ne hce with hlt | hgt
      · exact key c e hlt he a
      · exact fun hh => key e c hgt hc a hh.symm

/-- The engine's writes stay inside the write ranges, on success and on BusError (20_memory.md rule R53). -/
theorem applyStores_frame {i : Instr} {l : Latched} {m m' : Memory} {pf : Platform} {a : Addr}
    (h : planWrites (planOf i l m pf) a = false) :
    readByte (applyStores (planOf i l m pf).stores m') a = readByte m' a :=
  readByte_applyStores_frame _ _ _ fun st hst he => by simp [← he, store_in_writes hst] at h

theorem scatterStores_frame {i : Instr} {l : Latched} {m m' : Memory} {pf pf' : Platform} {k : Nat} {a : Addr}
    (h : planWrites (planOf i l m pf) a = false) :
    readByte (scatterStores pf' k (planOf i l m pf).stores m') a = readByte m' a :=
  readByte_scatterStores_frame _ _ _ _ _ fun st hst he => by simp [← he, store_in_writes hst] at h

/-- A byte of a command cut short holds its old value or the final value of one of its stores, where these need no
byte that does not respond (60_exceptions.md rule R167). -/
theorem scatterStores_old_or_final (pf : Platform) (k : Nat) (sts : List Store) (m : Memory) (a : Addr)
    (h : ∀ st ∈ sts, st.addr = a → ∀ b ∈ st.takenFrom, responds pf b = true) :
    readByte (scatterStores pf k sts m) a = readByte m a ∨
      ∃ st ∈ sts, st.addr = a ∧ readByte (scatterStores pf k sts m) a = st.val := by
  induction sts generalizing m k with
  | nil => exact .inl rfl
  | cons x sts ih =>
    rw [scatterStores]
    rcases ih (k + 1) (writeByte m x.addr (drawnByte pf k x (readByte m x.addr))) fun st hst => h st (by simp [hst])
      with e | ⟨st, hst, ha, e⟩
    · rw [e, readByte_writeByte]
      split
      · next hax =>
        subst hax
        rcases drawnByte_cases pf k x (readByte m x.addr) (h x (by simp) rfl) with e | e
        · exact .inl e
        · exact .inr ⟨x, by simp, rfl, e⟩
      · exact .inl rfl
    · exact .inr ⟨st, by simp [hst], ha, e⟩

/-! The footprint -/

/-- The footprint of 20_memory.md rule R52 does not depend on which bytes respond. -/
theorem footprint_platform (i : Instr) (l : Latched) (m : Memory) (pf pf' : Platform) (a : Addr) :
    ((planFootprint (planOf i l m pf)).any fun r => rangeHas r a) =
      ((planFootprint (planOf i l m pf')).any fun r => rangeHas r a) := by
  cases i with
  | fnorm ch =>
    have part : ∀ pf : Platform, ((planFootprint (planOf (.fnorm ch) l m pf)).any fun r => rangeHas r a) = true ↔
        if fnormFrames ch l = 0 then rangeHas ⟨l.src, 2 * ch.toNat * fnormFrames ch l⟩ a = true
        else rangeHas ⟨l.src, 2 * ch.toNat * fnormFrames ch l⟩ a = true ∨ rangeHas ⟨l.dst0, 4 * ch.toNat⟩ a = true ∨
          ∃ c < ch.toNat, rangeHas (fnormDest ch l m c) a = true := by
      intro pf
      by_cases hf : fnormFrames ch l = 0
      · simp [planOf, fnormPlan, hf, planFootprint, planRanges]
      · simp only [planOf, fnormPlan, hf, if_false, planFootprint, planRanges, List.any_append, Bool.or_eq_true,
          List.any_eq_true, List.mem_map, List.mem_filter, List.mem_range]
        constructor
        · rintro ((⟨r, hr, h⟩ | ⟨_, ⟨c, ⟨hc, _⟩, rfl⟩, h⟩) | ⟨_, ⟨c, ⟨hc, _⟩, rfl⟩, h⟩)
          · simp at hr; rcases hr with rfl | rfl
            · exact .inl h
            · exact .inr (.inl h)
          · exact .inr (.inr ⟨c, hc, h⟩)
          · exact .inr (.inr ⟨c, hc, h⟩)
        · rintro (h | h | ⟨c, hc, h⟩)
          · exact .inl (.inl ⟨_, by simp, h⟩)
          · exact .inl (.inl ⟨_, List.mem_cons_of_mem _ (List.mem_singleton.2 rfl), h⟩)
          · cases he : entryRead pf l c
            · exact .inr ⟨_, ⟨c, ⟨hc, by simp [he]⟩, rfl⟩, h⟩
            · exact .inl (.inr ⟨_, ⟨c, ⟨hc, he⟩, rfl⟩, h⟩)
    rw [Bool.eq_iff_iff, part, part]
  | _ => simp only [planFootprint, planRanges, planOf, convPlan, split8Plan, split16Plan, splitPlan]

/-- A write outside the footprint leaves the footprint as it is: the pointer table lies inside it. -/
theorem footprint_writeByte (i : Instr) (l : Latched) (m : Memory) (pf : Platform) (a x : Addr) (b : Byte)
    (hx : ((planFootprint (planOf i l m pf)).any fun r => rangeHas r x) = false) :
    ((planFootprint (planOf i l (writeByte m x b) pf)).any fun r => rangeHas r a) =
      ((planFootprint (planOf i l m pf)).any fun r => rangeHas r a) := by
  cases i with
  | fnorm ch =>
    by_cases hf : fnormFrames ch l = 0
    · simp [planOf, fnormPlan, hf, planFootprint, planRanges]
    have ht : ∀ c < ch.toNat, tableEntry l (writeByte m x b) c = tableEntry l m c := by
      intro c hc
      have hne : ∀ k < 4 * ch.toNat, addrPlus l.dst0 k ≠ x := by
        rintro k hk rfl
        rw [← Bool.not_eq_true] at hx
        apply hx
        simp only [planOf, fnormPlan, hf, if_false, planFootprint, planRanges, List.any_append, List.any_cons]
        have : rangeHas ⟨l.dst0, 4 * ch.toNat⟩ (addrPlus l.dst0 k) = true := rangeHas_offset _ hk
        simp [this]
      simp only [tableEntry, readWord, readHalf, entryAddr, addrPlus_addrPlus]
      rw [readByte_writeByte_ne _ _ (hne _ (by omega)), readByte_writeByte_ne _ _ (hne _ (by omega)),
        readByte_writeByte_ne _ _ (hne _ (by omega)), readByte_writeByte_ne _ _ (hne _ (by omega))]
    have hm : ∀ p : Nat → Bool, ((List.range ch.toNat).filter p).map (fnormDest ch l (writeByte m x b)) =
        ((List.range ch.toNat).filter p).map (fnormDest ch l m) := by
      intro p
      refine List.map_congr_left fun c hc => ?_
      simp only [fnormDest]
      rw [ht c (List.mem_range.1 (List.mem_filter.1 hc).1)]
    simp only [planOf, fnormPlan, hf, if_false, planFootprint, planRanges, hm]
  | _ => simp only [planFootprint, planRanges, planOf, convPlan, split8Plan, split16Plan, splitPlan]

/-! Elements after a successful completion -/

theorem readByte_of_store {sts : List Store} {m : Memory} (hd : (sts.map (·.addr)).Nodup) {a : Addr} {v : Byte}
    {l : List Addr} (h : (⟨a, v, l⟩ : Store) ∈ sts) : readByte (applyStores sts m) a = v :=
  readByte_applyStores_mem sts m hd h

theorem half_of_bytes (v : Half) : v.extractLsb' 8 8 ++ v.extractLsb' 0 8 = v := by
  apply BitVec.eq_of_getLsbD_eq
  intro i hi
  rw [BitVec.getLsbD_append, BitVec.getLsbD_extractLsb', BitVec.getLsbD_extractLsb']
  by_cases h : i < 8
  · simp [h]
  · simp [h, show i - 8 < 8 by omega, show 8 + (i - 8) = i by omega]

theorem word_of_bytes (v : Word) :
    (v.extractLsb' 24 8 ++ v.extractLsb' 16 8) ++ (v.extractLsb' 8 8 ++ v.extractLsb' 0 8) = v := by
  apply BitVec.eq_of_getLsbD_eq
  intro i hi
  simp only [BitVec.getLsbD_append, BitVec.getLsbD_extractLsb']
  by_cases h1 : i < 8
  · simp [h1, show i < 16 by omega]
  · by_cases h2 : i < 16
    · simp [h1, h2, show i - 8 < 8 by omega, show 8 + (i - 8) = i by omega]
    · by_cases h3 : i < 24
      · simp [h2, show i - 16 < 8 by omega, show 16 + (i - 16) = i by omega]
      · simp [h2, show ¬i - 16 < 8 by omega, show i - 16 - 8 < 8 by omega, show 24 + (i - 16 - 8) = i by omega]

/-- A stored native sample reads back (20_memory.md rule R55). -/
theorem readHalf_of_storeSample {sts : List Store} {m : Memory} (hd : (sts.map (·.addr)).Nodup) {d : Addr} {x : Sample}
    (h : ∀ st ∈ storeSample d x, st ∈ sts) : readHalf (applyStores sts m) d = x.val := by
  have h0 := readByte_of_store (m := m) hd (h ⟨d, x.val.extractLsb' 0 8, x.lowFrom⟩ (by simp [storeSample]))
  have h1 := readByte_of_store (m := m) hd
    (h ⟨addrPlus d 1, x.val.extractLsb' 8 8, x.highFrom⟩ (by simp [storeSample]))
  rw [readHalf, h0, h1, half_of_bytes]

/-- A stored float pattern reads back (20_memory.md rule R56). -/
theorem readWord_of_storeFloat {sts : List Store} {m : Memory} (hd : (sts.map (·.addr)).Nodup) {d : Addr} {v : Word}
    {l : List Addr} (h : ∀ st ∈ storeFloat d v l, st ∈ sts) : readWord (applyStores sts m) d = v := by
  have h0 := readByte_of_store (m := m) hd (h ⟨d, v.extractLsb' 0 8, []⟩ (by simp [storeFloat]))
  have h1 := readByte_of_store (m := m) hd (h ⟨addrPlus d 1, v.extractLsb' 8 8, l⟩ (by simp [storeFloat]))
  have h2 := readByte_of_store (m := m) hd (h ⟨addrPlus d 2, v.extractLsb' 16 8, l⟩ (by simp [storeFloat]))
  have h3 := readByte_of_store (m := m) hd (h ⟨addrPlus d 3, v.extractLsb' 24 8, l⟩ (by simp [storeFloat]))
  rw [readWord, readHalf, readHalf, addrPlus_addrPlus, h0, h1, h2, h3, word_of_bytes]

end Sys2Proof.Machine
end

