-- ==== Sys2Proof/Tests/Slice0.lean ====
section
/-! SUPPORT. Small tests, expected results from the vectors of 95_test_vectors.md or by hand from the encodings, and the
states the witnesses of Tests/Witnesses.lean start from. -/

namespace Sys2Proof.Tests

open Sys2Proof Sys2Proof.Machine

/-! Helpers -/

/-- A memory with the bytes of `l` at address `a`. -/
def put (m : Memory) (a : Nat) : List Nat → Memory
  | [] => m
  | b :: l => put (writeByte m (BitVec.ofNat 32 a) (BitVec.ofNat 8 b)) (a + 1) l

/-- `n` bytes from address `a`. -/
def get (m : Memory) (a n : Nat) : List Nat := (List.range n).map fun k => (readByte m (BitVec.ofNat 32 (a + k))).toNat

/-- A running machine with the given L and memory. -/
def running (op : Op) (be : Bool) (bps : BitVec 8) (ch : BitVec 16) (src len dst0 dst1 : Word) (m : Memory) : State :=
  { State.reset with
    phase := .running, mem := m
    latched := { op := op, be := be, bps := bps, ch := ch, src := src, len := len, dst0 := dst0, dst1 := dst1 } }

/-- The step answers a next state that passes the check. -/
def answers (o : Outcome) (p : State → Bool) : Bool :=
  match o with
  | .next t => p t
  | _ => false

/-! WellFormed: an ill-formed command for each check -/

theorem test_conv_bps24_ill_formed : (Instr.conv 24#8 true).wellFormed = false := by decide
theorem test_split8_ch0_ill_formed : (Instr.split8 0#16).wellFormed = false := by decide
theorem test_split16_ch3_ill_formed : (Instr.split16 3#16 true).wellFormed = false := by decide
theorem test_fnorm_ch0_ill_formed : (Instr.fnorm 0#16).wellFormed = false := by decide

/-! Decode: words written out from 30_encoding.md rule R71 -/

/-- CH 0x0000, BPS 00010000, RSV 000, BE 1, OP 0001. -/
theorem test_decode_conv :
    decode (0b0000000000000000#16 ++ 0b00010000#8 ++ 0b000#3 ++ 0b1#1 ++ 0b0001#4) = .ok (.conv 16#8 true) := by decide
/-- CH 2, BPS 0, RSV 0, BE 0, OP 0010. -/
theorem test_decode_split8 :
    decode (0b0000000000000010#16 ++ 0b00000000#8 ++ 0b000#3 ++ 0b0#1 ++ 0b0010#4) = .ok (.split8 2#16) := by decide
/-- CH 1, BPS 0, RSV 0, BE 1, OP 0011. -/
theorem test_decode_split16 :
    decode (0b0000000000000001#16 ++ 0b00000000#8 ++ 0b000#3 ++ 0b1#1 ++ 0b0011#4) = .ok (.split16 1#16 true) := by decide
/-- CH 65535, BPS 0, RSV 0, BE 0, OP 0100. -/
theorem test_decode_fnorm :
    decode (0b1111111111111111#16 ++ 0b00000000#8 ++ 0b000#3 ++ 0b0#1 ++ 0b0100#4) = .ok (.fnorm 65535#16) := by decide
/-- The non-canonical word of 30_encoding.md rule R84. -/
theorem test_decode_noncanonical : decode 0x123456E2#32 = .ok (.split8 4660#16) := by decide
/-- CONV bps=8 ignores BE (30_encoding.md rules R77, R84), so its canonical word is that of CONV8. -/
theorem test_conv8_be_not_canonical :
    canonical 0x00000811#32 = some 0x00000801#32 ∧ assemble (.conv 8 (some 1)) = some 0x00000801#32 ∧
      assemble (.conv 16 (some 1)) = some 0x00001011#32 := by decide
theorem test_decode_table_rows :
    decodeTableWord 8 1 = some (.conv 0#8 false) ∧ decodeTableWord 8 2 = some (.split8 0#16) ∧
      decodeTableWord 32 3 = some (.split16 0#16 false) ∧ decodeTableWord 32 0x00020004 = some (.fnorm 2#16) ∧
      decodeTableWord 32 5 = none := by decide

/-! The commands, from 95_test_vectors.md -/

/-- V2: CONV16BE, with a trailing byte that is not read. -/
def v2 : State :=
  running .conv true 16#8 0#16 0x1000#32 9#32 0x2000#32 0#32
    (put (put [] 0x1000 [0x12, 0x34, 0x80, 0x00, 0x7F, 0xFF, 0xFF, 0xFF, 0xAA]) 0x2000 (List.replicate 10 0xEE))
theorem test_conv16be_v2 :
    answers (exec (.conv 16#8 true) v2) (fun t =>
      get t.mem 0x2000 10 == [0x34, 0x12, 0x00, 0x80, 0xFF, 0x7F, 0xFF, 0xFF, 0xEE, 0xEE] && t.outCount == 4#32 &&
        t.statusWord == 0x00000002#32) = true := by decide
/-- V10: CONV8 whose source wraps past 0xFFFFFFFF. -/
theorem test_conv8_wraps_v10 :
    answers (exec (.conv 8#8 false)
        (running .conv false 8#8 0#16 0xFFFFFFFF#32 2#32 0x2000#32 0#32 (put (put [] 0xFFFFFFFF [0x11]) 0 [0x22])))
      (fun t => get t.mem 0x2000 4 == [0x11, 0, 0x22, 0] && t.outCount == 2#32) = true := by decide
/-- V13: SPLIT8S with a trailing partial frame. -/
def v13 : State :=
  running .split8 false 0#8 2#16 0x1000#32 5#32 0x2000#32 0x3000#32
    (put (put (put [] 0x1000 [0x10, 0x20, 0x11, 0x21, 0x12]) 0x2000 (List.replicate 5 0xEE)) 0x3000
      (List.replicate 5 0xEE))
theorem test_split8s_v13 :
    answers (exec (.split8 2#16) v13) (fun t =>
      get t.mem 0x2000 5 == [0x10, 0, 0x11, 0, 0xEE] && get t.mem 0x3000 5 == [0x20, 0, 0x21, 0, 0xEE] &&
        t.outCount == 2#32) = true := by decide
/-- V17 and V18: SPLIT16 on input X, in both byte orders. -/
def v17 (be : Bool) : State :=
  running .split16 be 0#8 2#16 0x1000#32 11#32 0x2000#32 0x3000#32
    (put [] 0x1000 [0x12, 0x34, 0x56, 0x78, 0x9A, 0xBC, 0xDE, 0xF0, 1, 2, 3])
theorem test_split16bes_v17 :
    answers (exec (.split16 2#16 true) (v17 true)) (fun t =>
      get t.mem 0x2000 5 == [0x34, 0x12, 0xBC, 0x9A, 0] && get t.mem 0x3000 5 == [0x78, 0x56, 0xF0, 0xDE, 0] &&
        t.outCount == 2#32) = true := by decide
theorem test_split16les_v18 :
    answers (exec (.split16 2#16 false) (v17 false)) (fun t =>
      get t.mem 0x2000 4 == [0x12, 0x34, 0x9A, 0xBC] && get t.mem 0x3000 4 == [0x56, 0x78, 0xDE, 0xF0]) = true := by
  decide
/-- V24: FNORMS, with the memory given below its table. -/
def v24 : State :=
  running .fnorm false 0#8 2#16 0x1000#32 5#32 0x4000#32 0#32
    (put (put [] 0x1000 [0x00, 0x40, 0x00, 0x80, 0xFF, 0x7F, 0x01, 0x00, 0xFF, 0xFF]) 0x4000
      [0x00, 0x50, 0x00, 0x00, 0x00, 0x60, 0x00, 0x00])
theorem test_fnorms_v24 :
    answers (exec (.fnorm 2#16) v24) (fun t =>
      get t.mem 0x5000 9 == [0, 0, 0, 0x3F, 0, 0xFE, 0x7F, 0x3F, 0] &&
        get t.mem 0x6000 9 == [0, 0, 0x80, 0xBF, 0, 0, 0, 0x38, 0] && t.outCount == 2#32) = true := by decide
/-- V43 with one faulting byte in the table: BusError, no float. -/
def v43 : State := { v24 with platform := { Config.platform with silent := [⟨0x4006#32, 1⟩] } }
theorem test_fnorm_table_fault :
    answers (exec (.fnorm 2#16) v43) (fun t =>
      t.statusWord == 0x00000046#32 && t.errval == 0x4006#32 && t.outCount == 0#32 && decide (t.mem = v43.mem)) = true := by
  decide
/-- V42: the only faulting byte of a CONV8. -/
def v42 : State :=
  { running .conv false 8#8 0#16 0x1000#32 1#32 0x9FFF#32 0#32 (put [] 0x1000 [5]) with
    platform := { Config.platform with silent := [⟨0x9000#32, 0x1000⟩] } }
theorem test_conv8_bus_error_v42 :
    answers (exec (.conv 8#8 false) v42) (fun t => t.statusWord == 0x00000046#32 && t.errval == 0x9FFF#32) = true := by
  decide

/-! Acceptance and the register window -/

/-- V30 to V40: STATUS and ERRVAL after the CMD write, from reset. -/
theorem test_acceptance_errors :
    ([(0x00001801, 0x16, 24), (0x00000001, 0x16, 0), (0x00002001, 0x16, 32), (0x00000002, 0x16, 0), (0x00030013, 0x16, 3),
      (0x123456E2, 0x16, 0x1234), (0x00000004, 0x26, 0), (0x00000000, 0x36, 0), (0x0002000F, 0x36, 15),
      (0x00001005, 0x36, 5), (0x00030000, 0x36, 0)] : List (Nat × Nat × Nat)).all (fun v =>
        answers (step (State.reset.withFetchWord 32 v.1)) fun t =>
          t.statusWord.toNat == v.2.1 && t.errval.toNat == v.2.2 && t.cmd.toNat == v.1) = true := by decide
/-- V45: a CMD write while BUSY = 1. -/
def v45 : State := { v2 with inputs := [.regWrite cmdOffset 4 0x00001001#32] }
theorem test_overrun_v45 : answers (step v45) (fun t => t.statusWord == 0x00000009#32 && t.cmd == 0#32) = true := by
  decide
/-- V46: with OVR = 1, an accepted CONV8 leaves STATUS = 0x9. -/
theorem test_accept_keeps_ovr_v46 :
    answers (step (State.withFetchWord { State.reset with ovr := true } 32 0x801)) (fun t => t.statusWord == 9#32) = true := by
  decide
/-- V41: the acknowledgement of V30 leaves STATUS = 0x14. -/
theorem test_ack_v41 :
    answers (step { State.reset with
        done := true, err := true, errcode := .unsupportedFormat, inputs := [.regWrite statusOffset 4 2#32] })
      (fun t => t.statusWord == 0x14#32) = true := by decide
/-- WAIT lets the engine finish, and stays (program P1). -/
theorem test_wait_runs_engine :
    answers (step { v2 with inputs := [.waitDone] })
      (fun t => t.done && decide (t.inputs = [.waitDone]) && decide (t.unobserved.length = 1)) = true := by decide

/-- 70_reset_and_hazards.md rule R196, step 7 after the next command's CMD write: the observed result is invalidated while
it is the next command's source, and is then read. -/
theorem test_invalidate_next_source :
    answers (step { v2 with platform := { Config.platform with coherent := false }, hostStale := [0x1000#32],
                            inputs := [.cacheInvalidate ⟨0x1000#32, 8⟩] })
      (fun t => decide (t.hostStale = [])) = true := by decide

end Sys2Proof.Tests
end

