-- ==== Sys2Proof/Tests/Witnesses.lean ====
section
/-! SUPPORT. A witness for every statement that has hypotheses: a concrete state and operands that meet them together. -/

namespace Sys2Proof.Tests

open Sys2Proof Sys2Proof.Machine

theorem v2_ready : EngineReady v2 (convPlan 16#8 true v2.latched v2.mem) :=
  .of_checks rfl (by decide) (by decide)

/-- SPLIT8 mono on the bytes of v13. -/
def v13m : State := { v13 with latched := { v13.latched with ch := 1#16, dst1 := 0x1000#32 } }
/-- SPLIT16 mono on input X. -/
def v17m : State := { v17 true with latched := { (v17 true).latched with ch := 1#16, dst1 := 0x1000#32 } }
/-- CONV8 on the bytes of v13. -/
def v13c : State := { v13 with latched := { v13.latched with op := .conv, bps := 8#8, dst0 := 0x5000#32 } }
/-- CONV16BE on input X. -/
def v17c : State := { v17 true with latched := { (v17 true).latched with op := .conv, bps := 16#8, dst0 := 0x5000#32 } }

theorem witness_DecodeIgnoresUnreadBits :
    decode 0x00070801#32 = .ok (.conv 8#8 false) ∧
      0x00070801#32 &&& readMask (.conv 8#8 false) = 0x00000811#32 &&& readMask (.conv 8#8 false) := by decide

/-- SpellingsBehaveAlike: two spellings of CONV8, a running state and an idle one. -/
theorem witness_SpellingsBehaveAlike :
    (Instr.conv 8#8 true).canonical = (Instr.conv 8#8 false).canonical ∧ (Instr.conv 8#8 true).wellFormed = true ∧
      v13c.phase = .running ∧ State.reset.phase = .idle := by decide

/-- An idle machine about to receive a CMD write of each kind of word. -/
def issuing (v : Word) : State := { State.reset with inputs := [.regWrite cmdOffset 4 v] }

theorem witness_StepAcceptsTheDecodedCommand :
    (issuing 0x801#32).inputs = .regWrite cmdOffset 4 0x801#32 :: [] ∧ (issuing 0x801#32).resetLine = false ∧
      (issuing 0x801#32).phase = .idle ∧ decode 0x801#32 = .ok (.conv 8#8 false) := by decide

/-- The hypotheses of CmdWriteIsAcceptance and AcceptanceAccessesNoMemory, for every branch of rule R161. -/
theorem witness_CmdWriteIsAcceptance :
    ∀ v ∈ [0x0#32, 0x5#32, 0xF#32, 0x801#32, 0x1011#32, 0x901#32, 0x10002#32, 0x20002#32, 0x30002#32, 0x10003#32, 0x3#32,
      0x4#32, 0x10004#32, 0xFFFF0004#32],
      (issuing v).inputs = .regWrite cmdOffset 4 v :: [] ∧ (issuing v).resetLine = false ∧ (issuing v).phase = .idle :=
  fun _ _ => ⟨rfl, rfl, rfl⟩

theorem witness_StepCompletesTheLatchedCommand :
    v2.phase = .running ∧ v2.resetLine = false ∧ v2.inputs = [] ∧ v2.done = false ∧
      { v2 with inputs := [.waitDone] }.inputs = .waitDone :: [] ∧
      { v2 with inputs := [.engine] }.inputs = .engine :: [] := by decide

theorem witness_PlacedCommandIsRunNext : decode (BitVec.ofNat 32 0x00020013) = .ok (.split16 2#16 true) := by decide

theorem witness_IdleMachineWaits : State.reset.phase = .idle ∧ State.reset.inputs = [] := by decide

/-- LegalCommandsAreLatched and the error completions at acceptance: an idle state, and operands at the edges of each
clause. -/
theorem witness_idle_operands :
    State.reset.phase = .idle ∧ (8#8 = 8#8 ∨ 8#8 = 16#8) ∧ (16#8 = 8#8 ∨ 16#8 = 16#8) ∧ (7#8 ≠ 8#8 ∧ 7#8 ≠ 16#8) ∧
      (255#8 ≠ 8#8 ∧ 255#8 ≠ 16#8) ∧ (0#16 ≠ 1#16 ∧ 0#16 ≠ 2#16) ∧ (3#16 ≠ 1#16 ∧ 3#16 ≠ 2#16) ∧
      (65535#16 ≠ 1#16 ∧ 65535#16 ≠ 2#16) ∧ 1#16 ≠ 0#16 ∧ 65535#16 ≠ 0#16 := by decide

theorem witness_CmdWriteWhileBusyOnlySetsOvr :
    v45.inputs = .regWrite cmdOffset 4 0x00001001#32 :: [] ∧ v45.resetLine = false ∧ v45.phase = .running := by decide

theorem witness_ConvCompletes_bps16 : (16#8 = 8#8 ∨ 16#8 = 16#8) ∧ EngineReady v2 (convPlan 16#8 true v2.latched v2.mem) :=
  ⟨.inr rfl, v2_ready⟩

theorem witness_ConvCompletes_bps8 :
    (8#8 = 8#8 ∨ 8#8 = 16#8) ∧ EngineReady v13c (convPlan 8#8 false v13c.latched v13c.mem) :=
  ⟨.inl rfl, .of_checks rfl (by decide) (by decide)⟩

theorem witness_Split8Completes :
    EngineReady v13 (split8Plan 2#16 v13.latched v13.mem) ∧ EngineReady v13m (split8Plan 1#16 v13m.latched v13m.mem) :=
  ⟨.of_checks rfl (by decide) (by decide), .of_checks rfl (by decide) (by decide)⟩

theorem witness_Split16Completes :
    EngineReady (v17 false) (split16Plan 2#16 false (v17 false).latched (v17 false).mem) ∧
      EngineReady v17m (split16Plan 1#16 true v17m.latched v17m.mem) :=
  ⟨.of_checks rfl (by decide) (by decide), .of_checks rfl (by decide) (by decide)⟩

theorem witness_FnormCompletes :
    2#16 ≠ 0#16 ∧ EngineReady v24 (fnormPlan 2#16 v24.latched v24.mem v24.platform) :=
  ⟨by decide, .of_checks rfl (by decide) (by decide)⟩

/-- FNORM at its largest CH, with no whole frame. -/
theorem witness_FnormCompletes_most_channels :
    65535#16 ≠ 0#16 ∧ EngineReady v24 (fnormPlan 65535#16 v24.latched v24.mem v24.platform) :=
  ⟨by decide, .of_checks rfl (by decide) (by decide)⟩

/-- EmptyCommandsCompleteWithoutAccess: the longest length without a whole sample or frame, for each command. -/
def short (op : Op) (bps : BitVec 8) (ch : BitVec 16) (len : Word) : State :=
  running op false bps ch 0x1000#32 len 0x2000#32 0x3000#32 []

theorem witness_EmptyCommands :
    ((short .conv 8#8 0#16 0#32).phase = .running ∧ (short .conv 8#8 0#16 0#32).latched.len.toNat < (8#8).toNat / 8) ∧
    ((short .conv 16#8 0#16 1#32).phase = .running ∧ (short .conv 16#8 0#16 1#32).latched.len.toNat < (16#8).toNat / 8) ∧
    ((short .split8 0#8 2#16 1#32).phase = .running ∧
      (short .split8 0#8 2#16 1#32).latched.len.toNat < (2#16).toNat) ∧
    ((short .split16 0#8 2#16 3#32).phase = .running ∧
      (short .split16 0#8 2#16 3#32).latched.len.toNat < 2 * (2#16).toNat) ∧
    (short .fnorm 0#8 65535#16 65534#32).phase = .running ∧
      (short .fnorm 0#8 65535#16 65534#32).latched.len.toNat < (65535#16).toNat := by decide

/-- FootprintsAreTheTable: both sample widths of CONV, a table that responds, and a length with a whole frame and one
without. -/
theorem witness_FootprintsAreTheTable :
    (8#8 = 8#8 ∨ 8#8 = 16#8) ∧ (16#8 = 8#8 ∨ 16#8 = 16#8) ∧ 2#16 ≠ 0#16 ∧ 6#16 ≠ 0#16 ∧
      0 < v24.latched.len.toNat / (2#16).toNat ∧ v24.latched.len.toNat / (6#16).toNat = 0 ∧
      ∀ a, rangeHas { base := v24.latched.dst0, len := 4 * (2#16).toNat } a = true → responds v24.platform a = true :=
  ⟨by decide, by decide, by decide, by decide, by decide, by decide, fun _ _ => rfl⟩

/-- FootprintsAreTheTable: with entry 1 of the table silent, its buffer is left unwritten and stays in the footprint. -/
theorem witness_FootprintsAreTheTable_silent_entry :
    (fnormPlan 2#16 v43.latched v43.mem v43.platform).writes = [⟨0x5000#32, 8⟩] ∧
      (fnormPlan 2#16 v43.latched v43.mem v43.platform).unread = [⟨0x6000#32, 8⟩] ∧
      ((planFootprint (fnormPlan 2#16 v43.latched v43.mem v43.platform)).any fun r => rangeHas r 0x6007#32) = true := by
  decide

/-- EngineWritesOnlyItsWriteRanges and CompletedFootprintIsGuarded: a command that answers, and a byte of its footprint. -/
theorem witness_EngineWritesOnlyItsWriteRanges :
    v2.phase = .running ∧ (∃ t, exec (.conv 16#8 true) v2 = .next t) ∧
      ((planFootprint (planOf (.conv 16#8 true) v2.latched v2.mem v2.platform)).any fun r => rangeHas r 0x2007#32) =
        true :=
  ⟨rfl, ⟨_, by rw [exec_running _ rfl]; exact v2_ready.finish_eq⟩, by decide⟩

theorem witness_BusErrorCompletes :
    v42.phase = .running ∧ InContract v42 (planOf (.conv 8#8 false) v42.latched v42.mem v42.platform) ∧
      planHas (planOf (.conv 8#8 false) v42.latched v42.mem v42.platform) 0x9FFF#32 = true ∧
      responds v42.platform 0x9FFF#32 = false :=
  ⟨rfl, contractBreach_eq_none.1 (by decide), by decide, by decide⟩

theorem witness_FnormTableFaultWritesNothing :
    v43.phase = .running ∧ 0 < v43.latched.len.toNat / (2#16).toNat ∧
      InContract v43 (fnormPlan 2#16 v43.latched v43.mem v43.platform) ∧
      rangeHas { base := v43.latched.dst0, len := 4 * (2#16).toNat } 0x4006#32 = true ∧
      responds v43.platform 0x4006#32 = false :=
  ⟨rfl, by decide, contractBreach_eq_none.1 (by decide), by decide, by decide⟩

/-- CONV8 in place: source and destination are one buffer. -/
def inPlace : State := running .conv false 8#8 0#16 0x1000#32 1#32 0x1000#32 0#32 []

theorem witness_OverlappingFootprintIsRefused :
    inPlace.phase = .running ∧
      planReads (planOf (.conv 8#8 false) inPlace.latched inPlace.mem inPlace.platform) 0x1000#32 = true ∧
      planWrites (planOf (.conv 8#8 false) inPlace.latched inPlace.mem inPlace.platform) 0x1000#32 = true ∧
      ∀ b, planHas (planOf (.conv 8#8 false) inPlace.latched inPlace.mem inPlace.platform) b = true →
        rangeHas (windowRange inPlace.platform) b = false :=
  ⟨rfl, by decide, by decide, any_apart_false.1 (by decide)⟩

/-- A running mono split, for MonoSplitIgnoresDst1, RunningCommandIgnoresLiveRegisters and
EngineRefusesExactlyOutsideTheContract. -/
theorem witness_running_mono : v13m.phase = .running ∧ v17m.phase = .running := ⟨rfl, rfl⟩

/-- v2 with other registers, another platform and other bytes outside the source: the two machines of
DestinationsDependOnlyOnSources. -/
def v2other : State :=
  { v2 with
    srcAddr := 5#32, doneIe := true, mem := put v2.mem 0x2000 [1, 2, 3]
    platform := { Config.platform with base := 0x50000000#32, silent := [⟨0x9000#32, 1⟩] } }

theorem witness_DestinationsDependOnlyOnSources :
    (Instr.conv 16#8 true).wellFormed = true ∧ v2.latched = v2other.latched ∧
      EngineReady v2 (planOf (.conv 16#8 true) v2.latched v2.mem v2.platform) ∧
      EngineReady v2other (planOf (.conv 16#8 true) v2other.latched v2other.mem v2other.platform) ∧
      ∀ a, planReads (planOf (.conv 16#8 true) v2.latched v2.mem v2.platform) a = true →
        readByte v2.mem a = readByte v2other.mem a := by
  refine ⟨by decide, rfl, v2_ready, .of_checks rfl (by decide) (by decide), fun a ha => ?_⟩
  have h : planReads (planOf (.conv 16#8 true) v2.latched v2.mem v2.platform) a =
      decide ((a - 0x1000#32).toNat < 8) := by
    simp [planReads, planOf, convPlan, rangeHas, v2, running, convCount, convWidth]
  rw [h, decide_eq_true_eq] at ha
  simp only [v2other, put]
  rw [readByte_writeByte_ne _ _ (by rintro rfl; revert ha; decide),
    readByte_writeByte_ne _ _ (by rintro rfl; revert ha; decide),
    readByte_writeByte_ne _ _ (by rintro rfl; revert ha; decide)]

theorem witness_SplitEqualsConvThenDeinterleave :
    (v13c.mem = v13.mem ∧ v13c.latched.src = v13.latched.src ∧ v13c.latched.len = v13.latched.len ∧
      EngineReady v13c (planOf (.conv 8#8 false) v13c.latched v13c.mem v13c.platform) ∧
      EngineReady v13 (planOf (.split8 2#16) v13.latched v13.mem v13.platform)) ∧
    v17c.mem = v17m.mem ∧ v17c.latched.src = v17m.latched.src ∧ v17c.latched.len = v17m.latched.len ∧
      EngineReady v17c (planOf (.conv 16#8 true) v17c.latched v17c.mem v17c.platform) ∧
      EngineReady v17m (planOf (.split16 1#16 true) v17m.latched v17m.mem v17m.platform) :=
  ⟨⟨rfl, rfl, rfl, .of_checks rfl (by decide) (by decide),
      .of_checks rfl (by decide) (by decide)⟩,
    rfl, rfl, rfl, .of_checks rfl (by decide) (by decide),
      .of_checks rfl (by decide) (by decide)⟩

/-- EndiannessRoundTrip: one sample, 0x1234, written in each byte order. -/
def trip (be : Bool) : State :=
  running .conv be 16#8 0#16 0x1000#32 2#32 0x2000#32 0#32 (put [] 0x1000 (if be then [0x12, 0x34] else [0x34, 0x12]))

theorem witness_EndiannessRoundTrip (be : Bool) :
    EngineReady (trip be) (convPlan 16#8 be (trip be).latched (trip be).mem) ∧ (trip be).latched.len.toNat = 2 * 1 ∧
      ∀ i, i < 1 →
        readByte (trip be).mem (addrPlus (trip be).latched.src (2 * i)) =
          (if be then (0x1234#16).extractLsb' 8 8 else (0x1234#16).extractLsb' 0 8) ∧
        readByte (trip be).mem (addrPlus (trip be).latched.src (2 * i + 1)) =
          (if be then (0x1234#16).extractLsb' 0 8 else (0x1234#16).extractLsb' 8 8) := by
  cases be <;> exact ⟨.of_checks rfl (by decide) (by decide), by decide, by decide⟩

theorem witness_NormFloat_order :
    (0#16).toInt = 0 ∧ (0x8000#16).toInt ≠ 0 ∧ (0x8000#16).toInt < (0x7FFF#16).toInt := by decide

/-- RegisterWritesChangeOneRegister, RegisterReadsHaveNoSideEffects and OtherRegisterAccessesAreRefused: legal and
illegal offsets and widths at the edges of the window. -/
theorem witness_register_accesses :
    State.reset.resetLine = false ∧ (0x00#6).toNat % 4 = 0 ∧ (0x3C#6).toNat % 4 = 0 ∧ 0x3C#6 ≠ 0x04#6 ∧
      (∀ off : BitVec 6, { State.reset with inputs := [.regWrite off 4 1#32] }.inputs = .regWrite off 4 1#32 :: []) ∧
      (∀ off : BitVec 6, { State.reset with inputs := [.regRead off 4] }.inputs = .regRead off 4 :: []) ∧
      (1 ≠ 4 ∨ (0x10#6).toNat % 4 ≠ 0) ∧ (4 ≠ 4 ∨ (0x3F#6).toNat % 4 ≠ 0) :=
  ⟨rfl, by decide, by decide, by decide, fun _ => rfl, fun _ => rfl, .inl (by decide), .inr (by decide)⟩

theorem witness_InterruptFollowsDoneAndEnable :
    { State.reset with done := true }.done = true ∧ (3#32).getLsbD 1 = true ∧ (3#32).getLsbD 0 = true ∧
      (2#32).getLsbD 0 = false ∧ State.reset.phase = .idle ∧ (Instr.fnorm 1#16).wellFormed = true := by decide

theorem witness_ResetAssertion :
    { State.reset with inputs := [.assertReset] }.inputs = .assertReset :: [] ∧ State.reset.phase = .idle ∧
      { v2 with inputs := [.assertReset] }.inputs = .assertReset :: [] ∧ v2.phase = .running := by decide

theorem witness_ResetAbandonsRunningCommand :
    InContract v2 v2.runningPlan ∧ (latchedInstr v2.latched).wellFormed = true ∧
      ∀ b, planReads v2.runningPlan b = true → responds v2.platform b = true :=
  ⟨v2_ready.inContract, by decide, fun _ _ => rfl⟩

/-- The reset state with the reset input asserted, about to be released. -/
def releasing : State := { State.reset with resetLine := true, inputs := [.releaseReset] }

theorem witness_ReleasedMachineIsInTheResetState :
    releasing.Inv ∧ releasing.resetLine = true ∧ releasing.inputs = .releaseReset :: [] :=
  ⟨⟨by decide, nofun, nofun, nofun, by decide, fun _ => rfl, fun _ => rfl, fun _ => ⟨rfl, rfl, fun _ => rfl⟩⟩, rfl, rfl⟩

theorem witness_AssertedResetIgnoresAccesses : { State.reset with resetLine := true }.resetLine = true := rfl

/-- HostWritesAreSeenOrRefused: a byte just past the guarded source of a running command, and its last byte. -/
theorem witness_HostWritesAreSeenOrRefused :
    rangeHas (windowRange v2.platform) 0x1008#32 = false ∧ v2.guarded 0x1008#32 = false ∧
      rangeHas (windowRange v2.platform) 0x1007#32 = false ∧ v2.guarded 0x1007#32 = true := by decide

/-- GuardedByteStaysGuardedUntilObserved: the last source byte of a running command, and its completion. -/
theorem witness_GuardedByteStaysGuardedUntilObserved : v2.guarded 0x1007#32 = true ∧ ∃ t, step v2 = .next t :=
  ⟨by decide, ⟨_, by rw [show step v2 = exec (.conv 16#8 true) v2 from rfl, exec_running _ rfl]; exact v2_ready.finish_eq⟩⟩

/-- v2 with an earlier command that wrote 0x2000 and is not observed. -/
def v2after : State := { v2 with unobserved := [{ touched := [⟨0x2000#32, 2⟩], old := [(0x2000, 7#8), (0x2001, 8#8)] }] }

/-- HostReadBeforeDoneIsOldOrFinal: a command running, with an earlier one not observed; and the engine idle. -/
theorem witness_HostReadBeforeDoneIsOldOrFinal :
    ((latchedInstr v2after.latched).wellFormed = true ∧ EngineReady v2after v2after.runningPlan ∧
      rangeHas (windowRange v2after.platform) 0x2000#32 = false ∧ 0x2000#32 ∉ v2after.hostStale) ∧
    { v2after with phase := .idle }.phase = .idle :=
  ⟨⟨by decide, .of_checks rfl (by decide) (by decide), by decide, by decide⟩, rfl⟩

theorem witness_HostReadAfterObservedDoneIsMemory :
    State.reset.phase = .idle ∧ State.reset.unobserved = [] ∧
      rangeHas (windowRange State.reset.platform) 0x2000#32 = false ∧ 0x2000#32 ∉ State.reset.hostStale := by decide

/-- v2 on a platform without coherence, with a source byte not written back and a destination byte not invalidated. -/
def v2cached : State :=
  { v2 with platform := { Config.platform with coherent := false }, hostDirty := [0x1000#32], hostStale := [0x2000#32] }

theorem witness_MissingCacheMaintenanceIsRefused :
    v2cached.phase = .running ∧ v2cached.platform.coherent = false ∧ 0x1000#32 ∈ v2cached.hostDirty ∧
      planReads (planOf (.conv 16#8 true) v2cached.latched v2cached.mem v2cached.platform) 0x1000#32 = true ∧
      rangeHas (windowRange v2cached.platform) 0x2000#32 = false ∧ 0x2000#32 ∈ v2cached.hostStale := by decide

/-- EveryStepKeepsTheInvariant: the reset state, about to accept a command. -/
theorem witness_EveryStepKeepsTheInvariant : (∃ t, step (issuing 0x801#32) = .next t) ∧ (issuing 0x801#32).Inv :=
  ⟨⟨_, rfl⟩, ⟨by decide, nofun, nofun, nofun, by decide, fun _ => rfl, fun _ => rfl, nofun⟩⟩

/-- The transitions of BUSY and OVR, and the changes of memory and of a parameter, all happen. -/
theorem witness_transitions :
    answers (step (issuing 0x801#32)) (fun t => decide (t.phase = .running)) = true ∧
    answers (step v2) (fun t => decide (t.phase = .idle) && readByte t.mem 0x2000#32 != readByte v2.mem 0x2000#32) = true ∧
    answers (step v45) (fun t => t.ovr) = true ∧
    answers (step { State.reset with ovr := true, inputs := [.regWrite statusOffset 4 8#32] }) (fun t => !t.ovr) = true ∧
    answers (step { State.reset with inputs := [.regWrite 0x10#6 4 7#32] })
      (fun t => t.srcAddr == 7#32 && !t.resetLine) = true := by decide

end Sys2Proof.Tests
end

section
/-! PROOF. A successful command is a function of L and its source bytes (00_scope.md rule R19). The plan of a command
that is ready is the same in two machines with the same L and the same source bytes; the completion gives every byte of
the write ranges the value the plan has for it. -/

namespace Sys2Proof.Machine

open Sys2Proof

/-! Bytes a range covers, and what is made of them -/

/-- The two memories have the same byte at every address of the range. -/
def AgreeOn (r : Range) (m m' : Memory) : Prop := ∀ a, rangeHas r a = true → readByte m a = readByte m' a

theorem AgreeOn.byte {b : Addr} {n k : Nat} {m m' : Memory} (h : AgreeOn ⟨b, n⟩ m m') (hk : k < n) :
    readByte m (addrPlus b k) = readByte m' (addrPlus b k) :=
  h _ (rangeHas_offset b hk)

theorem AgreeOn.half {b : Addr} {n k : Nat} {m m' : Memory} (h : AgreeOn ⟨b, n⟩ m m') (hk : k + 1 < n) :
    readHalf m (addrPlus b k) = readHalf m' (addrPlus b k) := by
  rw [readHalf, readHalf, addrPlus_addrPlus, h.byte hk, h.byte (by omega : k < n)]

theorem AgreeOn.word {b : Addr} {n k : Nat} {m m' : Memory} (h : AgreeOn ⟨b, n⟩ m m') (hk : k + 3 < n) :
    readWord m (addrPlus b k) = readWord m' (addrPlus b k) := by
  rw [readWord, readWord, addrPlus_addrPlus, h.half (by omega : k + 2 + 1 < n), h.half (by omega : k + 1 < n)]

theorem AgreeOn.sample8 {b : Addr} {n k : Nat} {m m' : Memory} (h : AgreeOn ⟨b, n⟩ m m') (hk : k < n) :
    sample8 m (addrPlus b k) = sample8 m' (addrPlus b k) := by
  simp only [Machine.sample8, h.byte hk]

theorem AgreeOn.sample16 {b : Addr} {n k : Nat} {m m' : Memory} (be : Bool) (h : AgreeOn ⟨b, n⟩ m m')
    (hk : k + 1 < n) : sample16 be m (addrPlus b k) = sample16 be m' (addrPlus b k) := by
  simp only [Machine.sample16, addrPlus_addrPlus, h.byte hk, h.byte (by omega : k < n)]

theorem agreeOn_of_planReads {p : Plan} {m m' : Memory} {r : Range} (hr : r ∈ p.reads)
    (h : ∀ a, planReads p a = true → readByte m a = readByte m' a) : AgreeOn r m m' :=
  fun a ha => h a (List.any_eq_true.2 ⟨r, hr, ha⟩)

/-! The plans of CONV, SPLIT8 and SPLIT16 -/

theorem convPlan_congr {bps : BitVec 8} {be : Bool} {l : Latched} {m m' : Memory} (hb : bps = 8#8 ∨ bps = 16#8)
    (h : AgreeOn ⟨l.src, convWidth bps * convCount bps l⟩ m m') : convPlan bps be l m = convPlan bps be l m' := by
  have sample : ∀ i < convCount bps l, convSample bps be l m i = convSample bps be l m' i := by
    intro i hi
    rcases hb with rfl | rfl
    · have hk : i < convWidth 8#8 * convCount 8#8 l := by simpa [convWidth] using hi
      simp only [convSample, if_true, h.sample8 hk]
    · have hk : 2 * i + 1 < convWidth 16#8 * convCount 16#8 l := block_offset_lt hi (by decide)
      simp only [convSample, if_neg (by decide : ¬16#8 = 8#8), h.sample16 be hk]
  simp only [convPlan, Plan.mk.injEq, true_and, and_true]
  exact List.flatMap_congr fun i hi => by rw [sample i (List.mem_range.1 hi)]

/-- The plan of a split is that of any reading of samples that gives the same at every sample of the source. -/
theorem splitPlan_congr {w : Nat} {f g : Addr → Sample} {ch : BitVec 16} {l : Latched}
    (h : ∀ k < ch.toNat * splitFrames w ch l, f (addrPlus l.src (w * k)) = g (addrPlus l.src (w * k))) :
    splitPlan w f ch l = splitPlan w g ch l := by
  simp only [splitPlan, Plan.mk.injEq, true_and, and_true]
  refine List.flatMap_congr fun i hi => List.flatMap_congr fun c hc => ?_
  rw [h _ (block_offset_lt (List.mem_range.1 hi) (List.mem_range.1 hc))]

theorem split8Plan_congr {ch : BitVec 16} {l : Latched} {m m' : Memory}
    (h : AgreeOn ⟨l.src, 1 * ch.toNat * splitFrames 1 ch l⟩ m m') : split8Plan ch l m = split8Plan ch l m' :=
  splitPlan_congr fun k hk => h.sample8 (by rw [Nat.mul_assoc]; omega)

theorem split16Plan_congr {ch : BitVec 16} {be : Bool} {l : Latched} {m m' : Memory}
    (h : AgreeOn ⟨l.src, 2 * ch.toNat * splitFrames 2 ch l⟩ m m') : split16Plan ch be l m = split16Plan ch be l m' :=
  splitPlan_congr fun k hk => h.sample16 be (by rw [Nat.mul_assoc]; omega)

/-! The plan of FNORM, where its pointer table responds -/

/-- The plan of FNORM with a frame to make and every table entry read: no entry is left out, and the platform has no
part in it. -/
def fnormReadPlan (ch : BitVec 16) (l : Latched) (m : Memory) : Plan :=
  { reads := [⟨l.src, 2 * ch.toNat * fnormFrames ch l⟩, ⟨l.dst0, 4 * ch.toNat⟩]
    writes := (List.range ch.toNat).map (fnormDest ch l m)
    unread := []
    stores := fnormStores ch l m
    count := fnormFrames ch l }

theorem fnormPlan_eq_of_no_frame {ch : BitVec 16} {l : Latched} (hf : fnormFrames ch l = 0) (m : Memory)
    (pf : Platform) :
    fnormPlan ch l m pf = { reads := [⟨l.src, 0⟩], writes := [], unread := [], stores := [], count := 0 } := by
  simp [fnormPlan, hf]

theorem fnormPlan_reads {ch : BitVec 16} {l : Latched} (hf : fnormFrames ch l ≠ 0) (m : Memory) (pf : Platform) :
    (fnormPlan ch l m pf).reads = [⟨l.src, 2 * ch.toNat * fnormFrames ch l⟩, ⟨l.dst0, 4 * ch.toNat⟩] := by
  simp [fnormPlan, hf]

theorem fnormPlan_eq_of_answered {ch : BitVec 16} {l : Latched} {m : Memory} {pf : Platform}
    (hf : fnormFrames ch l ≠ 0) (h : ∀ a, planHas (fnormPlan ch l m pf) a = true → responds pf a = true) :
    fnormPlan ch l m pf = fnormReadPlan ch l m := by
  have table : (⟨l.dst0, 4 * ch.toNat⟩ : Range) ∈ planRanges (fnormPlan ch l m pf) :=
    List.mem_append_left _ (by simp [fnormPlan_reads hf])
  have read : ∀ c ∈ List.range ch.toNat, entryRead pf l c = true := by
    intro c hc
    refine List.all_eq_true.2 fun k hk => ?_
    rw [entryAddr, addrPlus_addrPlus]
    exact h _ (List.any_eq_true.2
      ⟨_, table, rangeHas_offset _ (block_offset_lt (List.mem_range.1 hc) (List.mem_range.1 hk))⟩)
  have none_left : (List.range ch.toNat).filter (fun c => !(entryRead pf l c)) = [] :=
    List.filter_eq_nil_iff.2 fun c hc => by simp [read c hc]
  simp only [fnormPlan, if_neg hf, fnormReadPlan, List.filter_eq_self.2 read, none_left, List.map_nil,
    if_pos (List.all_eq_true.2 read)]

theorem fnormReadPlan_congr {ch : BitVec 16} {l : Latched} {m m' : Memory}
    (hs : AgreeOn ⟨l.src, 2 * ch.toNat * fnormFrames ch l⟩ m m') (ht : AgreeOn ⟨l.dst0, 4 * ch.toNat⟩ m m') :
    fnormReadPlan ch l m = fnormReadPlan ch l m' := by
  have entry : ∀ c ∈ List.range ch.toNat, tableEntry l m c = tableEntry l m' c := fun c hc =>
    ht.word (block_offset_lt (List.mem_range.1 hc) (by decide))
  have sample : ∀ i ∈ List.range (fnormFrames ch l), ∀ c ∈ List.range ch.toNat,
      readHalf m (fnormSource ch l i c) = readHalf m' (fnormSource ch l i c) := by
    intro i hi c hc
    have hk := block_offset_lt (List.mem_range.1 hi) (List.mem_range.1 hc)
    exact hs.half (by rw [Nat.mul_assoc]; omega)
  have dests : (List.range ch.toNat).map (fnormDest ch l m) = (List.range ch.toNat).map (fnormDest ch l m') :=
    List.map_congr_left fun c hc => by rw [fnormDest, fnormDest, entry c hc]
  have stores : fnormStores ch l m = fnormStores ch l m' :=
    List.flatMap_congr fun i hi => List.flatMap_congr fun c hc => by rw [entry c hc, sample i hi c hc]
  rw [fnormReadPlan, fnormReadPlan, dests, stores]

/-! Every command -/

/-- Where the footprints respond, the plan depends on memory through the bytes it reads only, and not on the
platform. -/
theorem planOf_congr {i : Instr} {l : Latched} {m m' : Memory} {pf pf' : Platform} (hi : i.wellFormed = true)
    (h : ∀ a, planHas (planOf i l m pf) a = true → responds pf a = true)
    (h' : ∀ a, planHas (planOf i l m' pf') a = true → responds pf' a = true)
    (hm : ∀ a, planReads (planOf i l m pf) a = true → readByte m a = readByte m' a) :
    planOf i l m pf = planOf i l m' pf' := by
  cases i with
  | conv bps be =>
    exact convPlan_congr (by simpa [Instr.wellFormed, bpsLegal] using hi)
      (agreeOn_of_planReads (List.mem_singleton.2 rfl) hm)
  | split8 ch => exact split8Plan_congr (agreeOn_of_planReads (List.mem_singleton.2 rfl) hm)
  | split16 ch be => exact split16Plan_congr (agreeOn_of_planReads (List.mem_singleton.2 rfl) hm)
  | fnorm ch =>
    simp only [planOf] at h h' hm ⊢
    by_cases hf : fnormFrames ch l = 0
    · rw [fnormPlan_eq_of_no_frame hf, fnormPlan_eq_of_no_frame hf]
    · rw [fnormPlan_eq_of_answered hf h, fnormPlan_eq_of_answered hf h']
      exact fnormReadPlan_congr (agreeOn_of_planReads (by simp [fnormPlan_reads hf]) hm)
        (agreeOn_of_planReads (by simp [fnormPlan_reads hf]) hm)

/-- Stores at planar addresses leave no byte of their buffers out. -/
theorem exists_store_of_planar {p : Plan} {base : Nat → Addr} {w n k : Nat}
    (hs : p.stores.map (·.addr) = planarAddrs base w n k)
    (hw : p.writes = (List.range k).map fun c => { base := base c, len := w * n }) {a : Addr}
    (h : planWrites p a = true) : ∃ st ∈ p.stores, st.addr = a := by
  have ha : a ∈ p.stores.map (·.addr) := by
    rw [hs, mem_planarAddrs_iff_range]
    simpa [planWrites, hw] using h
  simpa using ha

/-- Where the footprint responds, every byte of the write ranges is a byte of some store. -/
theorem exists_store_of_planWrites {i : Instr} {l : Latched} {m : Memory} {pf : Platform}
    (h : ∀ a, planHas (planOf i l m pf) a = true → responds pf a = true) {a : Addr}
    (ha : planWrites (planOf i l m pf) a = true) : ∃ st ∈ (planOf i l m pf).stores, st.addr = a := by
  cases i with
  | conv bps be => exact exists_store_of_planar (convPlan_addrs bps be l m) (by simp [convPlan, List.range_succ]) ha
  | split8 ch => exact exists_store_of_planar (splitPlan_addrs 1 (sample8 m) ch l) rfl ha
  | split16 ch be => exact exists_store_of_planar (splitPlan_addrs 2 (sample16 be m) ch l) rfl ha
  | fnorm ch =>
    simp only [planOf] at h ha ⊢
    by_cases hf : fnormFrames ch l = 0
    · simp [fnormPlan_eq_of_no_frame hf, planWrites] at ha
    · rw [fnormPlan_eq_of_answered hf h] at ha ⊢
      exact exists_store_of_planar (fnormStores_addrs ch l m) rfl ha

/-- A byte of the write ranges holds the value of its store, which is the same in every machine whose engine completes
the plan. -/
theorem EngineReady.destination_eq {s : State} {i : Instr} {l : Latched} {m : Memory}
    (hs : EngineReady s (planOf i l m s.platform)) (u : State) {a : Addr}
    (ha : planWrites (planOf i l m s.platform) a = true) :
    readByte (s.completeOk (planOf i l m s.platform)).mem a = readByte (u.completeOk (planOf i l m s.platform)).mem a := by
  obtain ⟨st, hst, rfl⟩ := exists_store_of_planWrites hs.answered ha
  have nodup := stores_nodup hs.inContract
  rw [State.completeOk_mem, State.completeOk_mem, readByte_applyStores_mem _ _ nodup hst,
    readByte_applyStores_mem _ _ nodup hst]

/-- Settles O31: the two machines have one plan, and each completes it. -/
theorem destinationsDependOnlyOnSources : Obligations.DestinationsDependOnlyOnSources := by
  intro s u i hi hl hs hu hm
  have same : planOf i s.latched s.mem s.platform = planOf i u.latched u.mem u.platform := by
    rw [← hl] at hu ⊢
    exact planOf_congr hi hs.answered hu.answered hm
  refine ⟨_, _, (exec_running i hs.running).trans hs.finish_eq, (exec_running i hu.running).trans hu.finish_eq, ?_, ?_⟩
  · rw [← same, State.completeOk_outCount, State.completeOk_outCount]
  · intro a ha
    rw [← same]
    exact hs.destination_eq u ha

end Sys2Proof.Machine
end

section
/-! SUPPORT. Register accesses, the input a step serves, and everything one step can do to the registers, said once. -/

namespace Sys2Proof.Machine

open Sys2Proof

/-! Register accesses -/

/-- A register write, offset by offset, with the offsets compared as they are. -/
theorem State.writeReg_eq_ite (s : State) (off : BitVec 6) (v : Word) :
    s.writeReg off v =
      if off = 0x08#6 then s.ackStatus v
      else if off = 0x10#6 then { s with srcAddr := v }
      else if off = 0x14#6 then { s with srcLen := v }
      else if off = 0x18#6 then { s with dst0Addr := v }
      else if off = 0x1C#6 then { s with dst1Addr := v }
      else if off = 0x24#6 then { s with doneIe := v.getLsbD 0 }
      else s := by
  simp only [State.writeReg, ← BitVec.toNat_inj, BitVec.toNat_ofNat]
  split <;> simp_all

/-- A register write, field by field. -/
theorem State.writeReg_eq (s : State) (off : BitVec 6) (v : Word) :
    s.writeReg off v =
      { s with
        done := if off = 0x08#6 then s.done && !(v.getLsbD 1) else s.done
        ovr := if off = 0x08#6 then s.ovr && !(v.getLsbD 3) else s.ovr
        srcAddr := if off = 0x10#6 then v else s.srcAddr
        srcLen := if off = 0x14#6 then v else s.srcLen
        dst0Addr := if off = 0x18#6 then v else s.dst0Addr
        dst1Addr := if off = 0x1C#6 then v else s.dst1Addr
        doneIe := if off = 0x24#6 then v.getLsbD 0 else s.doneIe } := by
  rw [State.writeReg_eq_ite]
  split_ifs <;> simp_all [State.ackStatus]

theorem accessLegal_iff {off : BitVec 6} {bytes : Nat} :
    accessLegal off bytes = true ↔ bytes = 4 ∧ off.toNat % 4 = 0 := by
  simp [accessLegal]

theorem State.hostWrite_eq_writeReg {s : State} {off : BitVec 6} (hr : s.resetLine = false) (hal : off.toNat % 4 = 0)
    (hc : off ≠ cmdOffset) (v : Word) : s.hostWrite off 4 v = .next (s.writeReg off v) := by
  simp [State.hostWrite, hr, accessLegal, hal, hc]

theorem State.hostWrite_eq_refused {s : State} {off : BitVec 6} {bytes : Nat} (hr : s.resetLine = false)
    (hl : accessLegal off bytes = false) (v : Word) : s.hostWrite off bytes v = .refused .registerAccess := by
  simp [State.hostWrite, hr, hl]

theorem State.hostRead_eq_readReg {s : State} {off : BitVec 6} (hr : s.resetLine = false) (hal : off.toNat % 4 = 0) :
    s.hostRead off 4 =
      .next ((s.observeIf (decide (off = statusOffset) && s.done)).answer (some (s.readReg off))) := by
  simp [State.hostRead, hr, accessLegal, hal]

theorem State.hostRead_eq_refused {s : State} {off : BitVec 6} {bytes : Nat} (hr : s.resetLine = false)
    (hl : accessLegal off bytes = false) : s.hostRead off bytes = .refused .registerAccess := by
  simp [State.hostRead, hr, hl]

theorem State.observeIf_eq (s : State) (seen : Bool) :
    s.observeIf seen = { s with unobserved := if seen then [] else s.unobserved } := by
  cases seen <;> rfl

/-! The input a step serves -/

/-- Any input but WAIT is served by the next step. -/
theorem step_of_inputs {s : State} {e : Input} {rest : List Input} (h : s.inputs = e :: rest) (he : e ≠ .waitDone) :
    step s = (s.withInputs rest).serve e := by
  rcases step_cases s with ⟨-, hn | ⟨rest', hw, -⟩⟩ | ⟨e', rest', hi, hs⟩
  · simp [hn] at h
  · exact absurd (List.cons.inj (h.symm.trans hw)).1 he
  · obtain ⟨rfl, rfl⟩ := List.cons.inj (h.symm.trans hi)
    exact hs

/-! What a step can do to the registers -/

/-- `StepEffect s t`: the next state `t` of a step from `s`, told by what becomes of the registers, with the input that
was served where only one kind of input does it. -/
inductive StepEffect (s : State) : State → Prop
  /-- No register changes, nor the engine phase, L or the reset line; memory stays canonical. -/
  | surroundings {m : Memory} {pf : Platform} {un : List Flight} {dirty stale : List Addr} {q : List Input}
      {rd : Option Word} {dr : Nat} (hm : Memory.wf s.mem → Memory.wf m) :
      StepEffect s
        { s with
          mem := m, platform := pf, unobserved := un, hostDirty := dirty, hostStale := stale, inputs := q
          readData := rd, draws := dr }
  /-- The running command completes (60_exceptions.md rule R165). -/
  | completed (q : List Input) (p : Plan) (hp : s.phase = .running) (hr : s.resetLine = false) :
      StepEffect s ((s.withInputs q).completeOk p)
  /-- The running command completes with BUS_ERROR (60_exceptions.md rule R167). -/
  | busError (q : List Input) (p : Plan) (a : Addr) (as : List Addr) (hp : s.phase = .running)
      (hr : s.resetLine = false) : StepEffect s ((s.withInputs q).completeBusError p a as)
  /-- A CMD write while BUSY = 1 (60_exceptions.md rule R162). -/
  | overrun (v : Word) (rest : List Input) (hi : s.inputs = .regWrite cmdOffset 4 v :: rest)
      (hr : s.resetLine = false) (hp : s.phase = .running) : StepEffect s (s.withInputs rest).overrun
  /-- A CMD write that fails at acceptance (60_exceptions.md rule R163). -/
  | rejected (v : Word) (rest : List Input) (code : ErrCode) (val : Word)
      (hi : s.inputs = .regWrite cmdOffset 4 v :: rest) (hr : s.resetLine = false) (hp : s.phase = .idle)
      (hc : code ≠ .noError) :
      StepEffect s (((s.withInputs rest).withCmd v).clearRecord.completeError code val)
  /-- A CMD write of a legal command, which is latched (60_exceptions.md rule R161). -/
  | latched (v : Word) (rest : List Input) (i : Instr) (op : Op) (be : Bool) (bps : BitVec 8) (ch : BitVec 16)
      (hi : s.inputs = .regWrite cmdOffset 4 v :: rest) (hr : s.resetLine = false) (hp : s.phase = .idle)
      (hd : decode v = .ok i) (hw : i.wellFormed = true)
      (hl : latchedInstr (((s.withInputs rest).withCmd v).clearRecord.latch op be bps ch).latched = i) :
      StepEffect s (((s.withInputs rest).withCmd v).clearRecord.latch op be bps ch)
  /-- A write of another register (10_state.md rule R22). -/
  | written (off : BitVec 6) (v : Word) (rest : List Input) (hi : s.inputs = .regWrite off 4 v :: rest)
      (hr : s.resetLine = false) (ho : off ≠ cmdOffset) : StepEffect s ((s.withInputs rest).writeReg off v)
  /-- Reset is asserted (70_reset_and_hazards.md rule R191). -/
  | reset (u : State) (rest : List Input) (hi : s.inputs = .assertReset :: rest)
      (hm : Memory.wf s.mem → Memory.wf u.mem) : StepEffect s u.resetRegs
  /-- Reset is released (70_reset_and_hazards.md rule R190). -/
  | released (rest : List Input) : StepEffect s (s.withInputs rest).releaseReset

namespace StepEffect

variable {s t : State} {rest : List Input}

/-- The engine's step, whatever is left of the inputs. -/
theorem of_engineStep (q : List Input) (h : (s.withInputs q).engineStep = .next t) : StepEffect s t := by
  rcases engineStep_cases (s.withInputs q) with ⟨hp, hr, e⟩ | ⟨-, e⟩
  · rcases finish_next (e.symm.trans h) with rfl | ⟨a, as, -, rfl⟩
    · exact .completed q _ hp hr
    · exact .busError q _ a as hp hr
  · cases e.symm.trans h
    exact .surroundings id

theorem of_writeCmd {v : Word} (hi : s.inputs = .regWrite cmdOffset 4 v :: rest) (hr : s.resetLine = false)
    (h : (s.withInputs rest).writeCmd v = .next t) : StepEffect s t := by
  cases hp : s.phase with
  | running =>
    simp only [State.writeCmd, State.withInputs_phase, hp, if_true] at h
    cases h
    exact .overrun v rest hi hr hp
  | idle =>
    simp only [State.writeCmd, State.withInputs_phase, hp, reduceCtorEq, if_false] at h
    cases hd : decode v with
    | error r =>
      cases r
      rw [hd] at h
      cases h
      exact .rejected v rest .illegalOp _ hi hr hp (by decide)
    | ok i =>
      rw [hd] at h
      have idle : ((s.withInputs rest).withCmd v).phase = .idle := hp
      rcases exec_idle i idle with ⟨code, val, hc, e⟩ | ⟨hc, op, be, bps, ch, e, hl⟩ <;> cases e.symm.trans h
      · exact .rejected v rest code val hi hr hp (checkOf_code hc)
      · exact .latched v rest i op be bps ch hi hr hp hd ((checkOf_eq_none i).1 hc) hl

theorem of_hostWrite {off : BitVec 6} {bytes : Nat} {v : Word} (hi : s.inputs = .regWrite off bytes v :: rest)
    (h : (s.withInputs rest).hostWrite off bytes v = .next t) : StepEffect s t := by
  unfold State.hostWrite at h
  split at h
  · cases h
    exact .surroundings id
  next hr =>
    have hr : s.resetLine = false := by simpa using hr
    split at h
    · cases h
    next hl =>
      obtain ⟨rfl, -⟩ := accessLegal_iff.1 (by simpa using hl)
      split at h
      next ho =>
        subst ho
        exact of_writeCmd hi hr h
      next ho =>
        cases h
        exact .written off v rest hi hr ho

theorem of_answer_observeIf (q : List Input) (seen : Bool) (v : Option Word) :
    StepEffect s (((s.withInputs q).observeIf seen).answer v) := by
  cases seen <;> exact .surroundings id

theorem of_hostRead {off : BitVec 6} {bytes : Nat} (h : (s.withInputs rest).hostRead off bytes = .next t) :
    StepEffect s t := by
  unfold State.hostRead at h
  split at h
  · cases h
    exact .surroundings id
  · split at h <;> cases h
    exact of_answer_observeIf rest _ _

theorem of_windowAccess (h : (s.withInputs rest).windowAccess = .next t) : StepEffect s t := by
  unfold State.windowAccess at h
  split at h <;> cases h
  exact .surroundings id

theorem of_hostMemWrite {a : Addr} {b : Byte} (h : (s.withInputs rest).hostMemWrite a b = .next t) :
    StepEffect s t := by
  unfold State.hostMemWrite at h
  split at h
  · exact of_windowAccess h
  · split at h <;> cases h
    exact .surroundings fun wf => writeByte_wf wf a b

theorem of_hostMemRead {a : Addr} (h : (s.withInputs rest).hostMemRead a = .next t) : StepEffect s t := by
  unfold State.hostMemRead at h
  split at h
  · exact of_windowAccess h
  · split at h
    · cases h
    · split at h <;> cases h
      exact .surroundings id

theorem of_assertReset (hi : s.inputs = .assertReset :: rest) (h : (s.withInputs rest).assertReset = .next t) :
    StepEffect s t := by
  unfold State.assertReset at h
  split at h
  · split at h <;> cases h
    exact .reset _ rest hi fun wf => scatterStores_wf _ _ _ wf
  · cases h
    exact .reset _ rest hi id

theorem of_cleanRange {r : Range} (h : (s.withInputs rest).cleanRange r = .next t) : StepEffect s t := by
  unfold State.cleanRange at h
  split at h <;> cases h
  exact .surroundings id

theorem of_invalidateRange {r : Range} (h : (s.withInputs rest).invalidateRange r = .next t) : StepEffect s t := by
  unfold State.invalidateRange at h
  split at h <;> cases h
  exact .surroundings id

theorem of_serve {e : Input} (hi : s.inputs = e :: rest) (h : (s.withInputs rest).serve e = .next t) :
    StepEffect s t := by
  cases e with
  | regWrite off bytes v => exact of_hostWrite hi h
  | regRead off bytes => exact of_hostRead h
  | waitDone => exact of_hostRead h
  | sampleIrq => cases h; exact of_answer_observeIf rest _ _
  | memWrite a b => exact of_hostMemWrite h
  | memRead a => exact of_hostMemRead h
  | engine => exact of_engineStep rest h
  | assertReset => exact of_assertReset hi h
  | releaseReset => cases h; exact .released rest
  | cacheClean r => exact of_cleanRange h
  | cacheInvalidate r => exact of_invalidateRange h
  | setSilent rs => cases h; exact .surroundings id

/-- Every step has one of the effects. -/
theorem of_step (h : step s = .next t) : StepEffect s t := by
  rcases step_cases s with ⟨e, -⟩ | ⟨i, rest, hi, e⟩
  · exact of_engineStep s.inputs (e.symm.trans h)
  · exact of_serve hi (e.symm.trans h)

end StepEffect

end Sys2Proof.Machine
end

section
/-! PROOF. Every step keeps the invariant: each of its effects does. -/

namespace Sys2Proof.Machine

open Sys2Proof

/-- Of an IDLE engine with reset released the invariant says only that memory is canonical and what the error record
reads. -/
theorem State.Inv.of_idle {s : State} (hp : s.phase = .idle) (hr : s.resetLine = false) (memWf : Memory.wf s.mem)
    (errIff : s.err = true ↔ s.errcode ≠ .noError) (errvalZero : s.errcode = .noError → s.errval = 0#32)
    (outCountZero : s.err = true → s.outCount = 0#32) : s.Inv :=
  ⟨memWf, by simp [hp], by simp [hp], by simp [hp], errIff, errvalZero, outCountZero, by simp [hr]⟩

/-- A successful completion leaves the record of an unfailed command: it was clear while the command ran. -/
theorem State.Inv.completeOk {s : State} (h : s.Inv) (hp : s.phase = .running) (hr : s.resetLine = false) (p : Plan) :
    (s.completeOk p).Inv := by
  obtain ⟨-, err, -⟩ := h.recordClear hp
  exact .of_idle rfl hr (applyStores_wf _ h.memWf) h.errIff h.errvalZero (by simp [err])

theorem State.Inv.completeBusError {s : State} (h : s.Inv) (hr : s.resetLine = false) (p : Plan) (a : Addr)
    (as : List Addr) : (s.completeBusError p a as).Inv :=
  .of_idle rfl hr (scatterStores_wf _ _ _ h.memWf) (by simp) (by simp) (by simp)

/-- A command that fails its check leaves the engine IDLE with an error record. -/
theorem State.Inv.completeError {s : State} (h : s.Inv) (hp : s.phase = .idle) (hr : s.resetLine = false)
    {code : ErrCode} (hc : code ≠ .noError) (v val : Word) :
    ((s.withCmd v).clearRecord.completeError code val).Inv :=
  .of_idle hp hr h.memWf (by simp [hc]) (by simp [hc]) (by simp)

/-- A legal command is latched as the command of the word in CMD, with the record clear. -/
theorem State.Inv.latch {s : State} (h : s.Inv) (hr : s.resetLine = false) {v : Word} {i : Instr} {op : Op} {be : Bool}
    {bps : BitVec 8} {ch : BitVec 16} (hd : decode v = .ok i) (hw : i.wellFormed = true)
    (hl : latchedInstr ((s.withCmd v).clearRecord.latch op be bps ch).latched = i) :
    ((s.withCmd v).clearRecord.latch op be bps ch).Inv where
  memWf := h.memWf
  recordClear _ := ⟨rfl, rfl, rfl, rfl, rfl⟩
  cmdLatched _ := by rw [hl]; exact hd
  latchedLegal _ := by rw [hl]; exact hw
  errIff := by simp
  errvalZero := by simp
  outCountZero := by simp
  resetIdle := by simp [hr]

/-- A register write clears DONE at most, which the clear record allows. -/
theorem State.Inv.writeReg {s : State} (h : s.Inv) (hr : s.resetLine = false) (off : BitVec 6) (v : Word) :
    (s.writeReg off v).Inv := by
  rw [State.writeReg_eq]
  exact
    { memWf := h.memWf
      recordClear := fun hp => by
        obtain ⟨done, record⟩ := h.recordClear hp
        exact ⟨by simp [done], record⟩
      cmdLatched := h.cmdLatched
      latchedLegal := h.latchedLegal
      errIff := h.errIff
      errvalZero := h.errvalZero
      outCountZero := h.outCountZero
      resetIdle := by simp [hr] }

/-- Under reset every register reads its reset value, from any state whose memory is canonical. -/
theorem State.resetRegs_inv {s : State} (h : Memory.wf s.mem) : s.resetRegs.Inv where
  memWf := h
  recordClear := by simp
  cmdLatched := by simp
  latchedLegal := by simp
  errIff := by simp
  errvalZero := by simp
  outCountZero := by simp
  resetIdle _ := ⟨rfl, rfl, fun _ => rfl⟩

/-- The invariant speaks of the registers, the phase, L, the reset line and the canonical form of memory only. -/
theorem State.Inv.of_surroundings {s : State} (h : s.Inv) {m : Memory} (hm : Memory.wf m) {pf : Platform}
    {un : List Flight} {dirty stale : List Addr} {q : List Input} {rd : Option Word} {dr : Nat} :
    State.Inv
      { s with
        mem := m, platform := pf, unobserved := un, hostDirty := dirty, hostStale := stale, inputs := q
        readData := rd, draws := dr } :=
  ⟨hm, h.recordClear, h.cmdLatched, h.latchedLegal, h.errIff, h.errvalZero, h.outCountZero, h.resetIdle⟩

theorem State.Inv.withInputs {s : State} (h : s.Inv) (q : List Input) : (s.withInputs q).Inv :=
  h.of_surroundings h.memWf

theorem State.Inv.overrun {s : State} (h : s.Inv) (hr : s.resetLine = false) : s.overrun.Inv :=
  ⟨h.memWf, h.recordClear, h.cmdLatched, h.latchedLegal, h.errIff, h.errvalZero, h.outCountZero, by simp [hr]⟩

theorem State.Inv.releaseReset {s : State} (h : s.Inv) : s.releaseReset.Inv :=
  ⟨h.memWf, h.recordClear, h.cmdLatched, h.latchedLegal, h.errIff, h.errvalZero, h.outCountZero, by simp⟩

/-- Settles O53: each effect of a step keeps the invariant. -/
theorem everyStepKeepsTheInvariant : Obligations.EveryStepKeepsTheInvariant := by
  intro s t h hstep
  cases StepEffect.of_step hstep with
  | surroundings hm => exact h.of_surroundings (hm h.memWf)
  | completed q p hp hr => exact (h.withInputs q).completeOk hp hr p
  | busError q p a as hp hr => exact (h.withInputs q).completeBusError hr p a as
  | overrun v rest hi hr hp => exact (h.withInputs rest).overrun hr
  | rejected v rest code val hi hr hp hc => exact (h.withInputs rest).completeError hp hr hc v val
  | latched v rest i op be bps ch hi hr hp hd hw hl => exact (h.withInputs rest).latch hr hd hw hl
  | written off v rest hi hr ho => exact (h.withInputs rest).writeReg hr off v
  | reset u rest hi hm => exact State.resetRegs_inv (hm h.memWf)
  | released rest => exact (h.withInputs rest).releaseReset

end Sys2Proof.Machine
end

section
/-! PROOF. Which step changes which register (10_state.md rules R20, R26, R29), read off its effects, and that the
running command depends on no live register (rule R42). -/

namespace Sys2Proof.Machine

open Sys2Proof

/-! Which step changes which register -/

/-- Settles O54: BUSY rises where a command is latched, and falls where one completes or reset is asserted. -/
theorem busyChangesOnlyByAcceptanceAndCompletion : Obligations.BusyChangesOnlyByAcceptanceAndCompletion := by
  intro s t hstep
  cases StepEffect.of_step hstep with
  | completed q p hp hr => simp [hp]
  | busError q p a as hp hr => simp [hp]
  | rejected v rest code val hi hr hp hc => simp [hp]
  | latched v rest i op be bps ch hi hr hp hd hw hl =>
    exact ⟨fun _ _ => ⟨v, rest, i, hi, hr, hd, hw, rfl, hl⟩, by simp [hp]⟩
  | reset u rest hi hm => simp
  | written off v rest hi hr ho =>
    rw [State.writeReg_eq]
    simp +contextual
  | surroundings | overrun | released => simp +contextual

/-- Settles O55: OVR rises where a CMD write is an overrun, and falls where STATUS is written or reset is asserted. -/
theorem ovrChangesOnlyByOverrunAndAcknowledgement : Obligations.OvrChangesOnlyByOverrunAndAcknowledgement := by
  intro s t hstep
  cases StepEffect.of_step hstep with
  | overrun v rest hi hr hp => exact ⟨fun _ _ => ⟨hp, hr, v, rest, hi⟩, by simp⟩
  | written off v rest hi hr ho =>
    rw [State.writeReg_eq]
    by_cases hs : off = statusOffset
    · subst hs
      refine ⟨by simp +contextual [statusOffset], fun hovr ht => .inl ⟨v, rest, hi, ?_⟩⟩
      simpa [statusOffset, hovr] using ht
    · have other : off ≠ 0x08#6 := hs
      simp +contextual [other]
  | reset u rest hi hm => exact ⟨by simp, fun _ _ => .inr ⟨rest, hi⟩⟩
  | surroundings | completed | busError | rejected | latched | released => simp +contextual

/-- Settles O57: of the effects that leave reset released, only a register write changes a parameter register, and it
changes the one it names. -/
theorem parametersChangeOnlyByTheirWrites : Obligations.ParametersChangeOnlyByTheirWrites := by
  intro s t hstep ht written
  cases StepEffect.of_step hstep with
  | written off v rest hi hr ho =>
    have own : ∀ reg : BitVec 6, off = reg → written reg := by
      rintro reg rfl
      exact ⟨v, rest, hi⟩
    rw [State.writeReg_eq]
    refine ⟨fun h => own _ ?_, fun h => own _ ?_, fun h => own _ ?_, fun h => own _ ?_, fun h => own _ ?_⟩ <;>
      exact (ite_ne_right_iff.1 h).1
  | reset u rest hi hm => simp at ht
  | surroundings | completed | busError | overrun | rejected | latched | released => simp

/-! The running command and the live registers -/

/-- A change of state that the engine's two checks do not see, and that passes through both completions, passes through
the engine's step. -/
theorem finish_commutes {f : State → State} {s : State} {p : Plan} (hb : contractBreach (f s) p = contractBreach s p)
    (hp : (f s).platform = s.platform) (hok : (f s).completeOk p = f (s.completeOk p))
    (hbus : ∀ a as, (f s).completeBusError p a as = f (s.completeBusError p a as)) :
    (∀ t, s.finish p = .next t → (f s).finish p = .next (f t)) ∧
      ∀ r, s.finish p = .refused r → (f s).finish p = .refused r := by
  unfold State.finish
  rw [hb, hp]
  cases contractBreach s p with
  | some r => simp
  | none =>
    cases silentBytes s.platform p with
    | nil => simp [hok]
    | cons a as => simp [hbus]

/-- Settles O30: the plan is made from L, memory and the platform, and neither the engine's checks nor its completions
look at a live register. -/
theorem runningCommandIgnoresLiveRegisters : Obligations.RunningCommandIgnoresLiveRegisters := by
  intro s i cmd src len dst0 dst1 ie hp other
  have running : (other s).phase = .running := hp
  rw [exec_running i hp, exec_running i running]
  exact finish_commutes (f := other) rfl rfl rfl fun _ _ => rfl

end Sys2Proof.Machine
end

section
/-! PROOF. The register window: what each offset reads as, the layout of STATUS, and what one register access does
(10_state.md rules R22 to R40). -/

namespace Sys2Proof.Machine

open Sys2Proof

theorem State.readReg_reserved (s : State) {off : BitVec 6} (h : 0x28 ≤ off.toNat) : s.readReg off = 0#32 := by
  obtain ⟨k, hk⟩ := Nat.exists_eq_add_of_le' h
  rw [State.readReg, hk]
  rfl

/-- Settles O38: the named offsets read as their registers by definition, IRQ_EN bit by bit, the others as reserved. -/
theorem registerMapReads : Obligations.RegisterMapReads := by
  intro s
  have irqEn : s.irqEnWord = if s.doneIe then 1#32 else 0#32 := by
    unfold State.irqEnWord
    cases s.doneIe <;> rfl
  exact ⟨rfl, rfl, rfl, rfl, rfl, rfl, rfl, rfl, rfl, irqEn, fun _ => s.readReg_reserved⟩

/-- STATUS bit by bit: the four flags, then the error code. -/
theorem State.statusWord_getLsbD (s : State) (k : Nat) :
    s.statusWord.getLsbD k =
      if k = 0 then s.busy
      else if k = 1 then s.done
      else if k = 2 then s.err
      else if k = 3 then s.ovr
      else s.errcode.number.getLsbD (k - 4) := by
  simp only [State.statusWord, BitVec.getLsbD_setWidth, BitVec.getLsbD_append]
  match k with
  | 0 | 1 | 2 | 3 => simp
  | k + 4 =>
    by_cases hk : k < 4
    · simp [hk, (by omega : k + 4 < 32)]
    · simp [BitVec.getLsbD_of_ge s.errcode.number k (by omega)]

/-- Settles O39: each field of STATUS is read back from the word the fields are put together in. -/
theorem statusLayout : Obligations.StatusLayout := by
  intro s
  have above (k : Nat) : s.statusWord.getLsbD (4 + k) = s.errcode.number.getLsbD k := by
    rw [s.statusWord_getLsbD, if_neg, if_neg, if_neg, if_neg, Nat.add_sub_cancel_left] <;> omega
  have code : s.statusWord.extractLsb' 4 4 = s.errcode.number :=
    BitVec.eq_of_getLsbD_eq fun k hk => by simp [hk, above]
  have legal : s.errcode.number.toNat ≤ 4 := by cases s.errcode <;> decide
  have high : s.statusWord.extractLsb' 8 24 = 0#24 := by
    refine BitVec.eq_of_getLsbD_eq fun k hk => ?_
    have zero : s.errcode.number.getLsbD (4 + k) = false := BitVec.getLsbD_of_ge _ _ (Nat.le_add_right 4 k)
    rw [BitVec.getLsbD_extractLsb', (by omega : 8 + k = 4 + (4 + k)), above, zero]
    simp
  exact ⟨s.statusWord_getLsbD 0, s.statusWord_getLsbD 1, s.statusWord_getLsbD 2, s.statusWord_getLsbD 3, code, legal,
    rfl, rfl, rfl, rfl, rfl, high⟩

/-- Settles O40: the step is the register write, offset by offset. -/
theorem registerWritesChangeOneRegister : Obligations.RegisterWritesChangeOneRegister := by
  intro s off v rest hi hr hal hcmd s0
  calc step s = s0.hostWrite off 4 v := step_of_inputs hi nofun
    _ = .next (s0.writeReg off v) := State.hostWrite_eq_writeReg (s := s0) hr hal hcmd v
    _ = _ := congrArg _ (s0.writeReg_eq_ite off v)

/-- Settles O41: the step is the register read, and observing DONE empties the list of unobserved commands alone. -/
theorem registerReadsHaveNoSideEffects : Obligations.RegisterReadsHaveNoSideEffects := by
  intro s off rest hi hr hal
  rw [step_of_inputs hi nofun]
  refine (State.hostRead_eq_readReg (s := s.withInputs rest) hr hal).trans ?_
  rw [State.observeIf_eq]
  simp only [Bool.and_eq_true, decide_eq_true_eq]
  rfl

/-- Settles O42: both accesses ask for the width and the alignment first. -/
theorem otherRegisterAccessesAreRefused : Obligations.OtherRegisterAccessesAreRefused := by
  intro s off bytes v rest hr hbad
  have illegal : accessLegal off bytes = false := by
    rw [← Bool.not_eq_true, accessLegal_iff]
    omega
  constructor <;> intro hi <;> rw [step_of_inputs hi nofun]
  · exact State.hostWrite_eq_refused (s := s.withInputs rest) hr illegal v
  · exact State.hostRead_eq_refused (s := s.withInputs rest) hr illegal

end Sys2Proof.Machine
end

section
/-! PROOF. The footprint of each command, range by range (20_memory.md rule R52, 60_exceptions.md rule R167), and that
the bytes its stores are taken from lie in it. -/

namespace Sys2Proof.Machine

open Sys2Proof

/-! The ranges -/

theorem planFootprint_of_unread_nil {p : Plan} (h : p.unread = []) : planFootprint p = p.reads ++ p.writes := by
  rw [planFootprint, h, List.append_nil, planRanges]

theorem fnormPlan_writes {ch : BitVec 16} {l : Latched} (hf : fnormFrames ch l ≠ 0) (m : Memory) (pf : Platform) :
    (fnormPlan ch l m pf).writes = ((List.range ch.toNat).filter (entryRead pf l)).map (fnormDest ch l m) := by
  simp [fnormPlan, hf]

theorem fnormPlan_unread {ch : BitVec 16} {l : Latched} (hf : fnormFrames ch l ≠ 0) (m : Memory) (pf : Platform) :
    (fnormPlan ch l m pf).unread =
      ((List.range ch.toNat).filter fun c => !(entryRead pf l c)).map (fnormDest ch l m) := by
  simp [fnormPlan, hf]

/-- An entry is read where its four bytes, counted from the start of the table, respond. -/
theorem entryRead_eq (pf : Platform) (l : Latched) :
    entryRead pf l = fun c => (List.range 4).all fun k => responds pf (addrPlus l.dst0 (4 * c + k)) := by
  funext c
  simp only [entryRead, entryAddr, addrPlus_addrPlus]

theorem entryRead_of_table {ch : BitVec 16} {l : Latched} {pf : Platform}
    (h : ∀ a, rangeHas ⟨l.dst0, 4 * ch.toNat⟩ a = true → responds pf a = true) {c : Nat} (hc : c < ch.toNat) :
    entryRead pf l c = true := by
  simp only [entryRead_eq, List.all_eq_true, List.mem_range]
  exact fun k hk => h _ (rangeHas_offset _ (block_offset_lt hc hk))

/-- Read or left unwritten, every entry's buffer belongs to the footprint. -/
theorem fnormPlan_footprint {ch : BitVec 16} {l : Latched} (hf : fnormFrames ch l ≠ 0) (m : Memory) (pf : Platform)
    (a : Addr) :
    ((planFootprint (fnormPlan ch l m pf)).any fun r => rangeHas r a) = true ↔
      rangeHas ⟨l.src, 2 * ch.toNat * fnormFrames ch l⟩ a = true ∨ rangeHas ⟨l.dst0, 4 * ch.toNat⟩ a = true ∨
        ∃ c < ch.toNat, rangeHas (fnormDest ch l m c) a = true := by
  have split_entries : (∃ c < ch.toNat, rangeHas (fnormDest ch l m c) a = true) ↔
      (∃ c < ch.toNat, entryRead pf l c = true ∧ rangeHas (fnormDest ch l m c) a = true) ∨
        ∃ c < ch.toNat, entryRead pf l c = false ∧ rangeHas (fnormDest ch l m c) a = true := by
    constructor
    · rintro ⟨c, hc, h⟩
      cases he : entryRead pf l c with
      | true => exact .inl ⟨c, hc, he, h⟩
      | false => exact .inr ⟨c, hc, he, h⟩
    · rintro (⟨c, hc, -, h⟩ | ⟨c, hc, -, h⟩) <;> exact ⟨c, hc, h⟩
  rw [split_entries]
  simp [planFootprint, planRanges, fnormPlan_reads hf, fnormPlan_writes hf, fnormPlan_unread hf]

/-- Settles O23: the plans' ranges are the table's, command by command; only FNORM's depend on what responds. -/
theorem footprintsAreTheTable : Obligations.FootprintsAreTheTable := by
  intro l m pf len touches
  have split8 (ch : BitVec 16) : touches (.split8 ch) [⟨l.src, 1 * ch.toNat * splitFrames 1 ch l⟩]
      ((List.range ch.toNat).map fun c => ⟨splitDest l c, 2 * splitFrames 1 ch l⟩) :=
    ⟨rfl, rfl, rfl, planFootprint_of_unread_nil rfl⟩
  have split16 (ch : BitVec 16) (be : Bool) : touches (.split16 ch be) [⟨l.src, 2 * ch.toNat * splitFrames 2 ch l⟩]
      ((List.range ch.toNat).map fun c => ⟨splitDest l c, 2 * splitFrames 2 ch l⟩) :=
    ⟨rfl, rfl, rfl, planFootprint_of_unread_nil rfl⟩
  refine ⟨fun bps be _ => ⟨rfl, rfl, rfl, planFootprint_of_unread_nil rfl⟩, ?_, ?_, fun be => ?_, fun be => ?_,
    fun ch _ => ?_⟩
  · simpa [splitFrames, splitDest, List.range_succ] using split8 1#16
  · simpa [splitFrames, splitDest, List.range_succ] using split8 2#16
  · simpa [splitFrames, splitDest, List.range_succ] using split16 1#16 be
  · simpa [splitFrames, splitDest, List.range_succ] using split16 2#16 be
  · intro f p source table buffer answered
    refine ⟨fun hf => ?_, fun hf => ?_⟩
    · have frames : fnormFrames ch l = 0 := hf
      simp [touches, planOf, fnormPlan_eq_of_no_frame frames, planFootprint_of_unread_nil]
    have frames : fnormFrames ch l ≠ 0 := hf.ne'
    have entry : entryRead pf l = answered := entryRead_eq pf l
    have reads : p.reads = [source, table] := fnormPlan_reads frames m pf
    have writes : p.writes = ((List.range ch.toNat).filter answered).map buffer := by
      rw [← entry]
      exact fnormPlan_writes frames m pf
    have unread : p.unread = ((List.range ch.toNat).filter fun c => !(answered c)).map buffer := by
      rw [← entry]
      exact fnormPlan_unread frames m pf
    refine ⟨reads, writes, unread, fnormPlan_footprint frames m pf, fun table_responds => ?_⟩
    have all_answered : ∀ c ∈ List.range ch.toNat, answered c = true := fun c hc => by
      rw [← entry]
      exact entryRead_of_table table_responds (List.mem_range.1 hc)
    rw [List.filter_eq_self.2 all_answered] at writes
    rw [List.filter_eq_nil_iff.2 fun c hc => by simp [all_answered c hc]] at unread
    exact ⟨reads, writes, unread, by rw [planFootprint_of_unread_nil unread, reads, writes]⟩

/-! The source bytes of the stores -/

/-- A byte of an element lies in the range of the elements. -/
theorem rangeHas_of_mem_blockAddrs {base b : Addr} {w n k : Nat} (hk : k < n)
    (hb : b ∈ blockAddrs (addrPlus base (w * k)) w) : rangeHas ⟨base, w * n⟩ b = true := by
  simp only [blockAddrs, addrPlus_addrPlus, List.mem_map, List.mem_range] at hb
  obtain ⟨j, hj, rfl⟩ := hb
  exact rangeHas_offset _ (block_offset_lt hk hj)

/-- `x` is taken from no byte but the `w` bytes at `a`. -/
def Sample.TakenFrom (x : Sample) (a : Addr) (w : Nat) : Prop := ∀ b ∈ x.lowFrom ++ x.highFrom, b ∈ blockAddrs a w

theorem sample8_takenFrom (m : Memory) (a : Addr) : (sample8 m a).TakenFrom a 1 := by
  simp [Sample.TakenFrom, sample8, blockAddrs]

theorem sample16_takenFrom (be : Bool) (m : Memory) (a : Addr) : (sample16 be m a).TakenFrom a 2 := by
  cases be <;> simp [Sample.TakenFrom, sample16, blockAddrs, List.range_succ]

theorem convSample_takenFrom {bps : BitVec 8} (hb : bps = 8#8 ∨ bps = 16#8) (be : Bool) (l : Latched) (m : Memory)
    (i : Nat) : (convSample bps be l m i).TakenFrom (addrPlus l.src (convWidth bps * i)) (convWidth bps) := by
  rcases hb with rfl | rfl
  · simpa [convSample, convWidth] using sample8_takenFrom m (addrPlus l.src i)
  · simpa [convSample, convWidth] using sample16_takenFrom be m (addrPlus l.src (2 * i))

theorem Sample.TakenFrom.of_store {x : Sample} {a d b : Addr} {w : Nat} (h : x.TakenFrom a w) {st : Store}
    (hst : st ∈ storeSample d x) (hb : b ∈ st.takenFrom) : b ∈ blockAddrs a w := by
  simp only [storeSample, List.mem_cons, List.not_mem_nil, or_false] at hst
  rcases hst with rfl | rfl
  · exact h b (List.mem_append_left _ hb)
  · exact h b (List.mem_append_right _ hb)

theorem takenFrom_of_storeFloat {d a b : Addr} {v : Word} {st : Store} (hst : st ∈ storeFloat d v [a, addrPlus a 1])
    (hb : b ∈ st.takenFrom) : b ∈ blockAddrs a 2 := by
  simp only [storeFloat, List.mem_cons, List.not_mem_nil, or_false] at hst
  rcases hst with rfl | rfl | rfl | rfl
  · cases hb
  all_goals simpa [blockAddrs, List.range_succ] using hb

theorem splitPlan_takenFrom {w : Nat} {f : Addr → Sample} (hf : ∀ a, (f a).TakenFrom a w) {ch : BitVec 16}
    {l : Latched} {st : Store} (hst : st ∈ (splitPlan w f ch l).stores) {b : Addr} (hb : b ∈ st.takenFrom) :
    planReads (splitPlan w f ch l) b = true := by
  simp only [splitPlan, List.mem_flatMap, List.mem_range] at hst
  obtain ⟨i, hi, c, hc, hst⟩ := hst
  simp only [planReads, splitPlan, List.any_cons, List.any_nil, Bool.or_false, Nat.mul_assoc]
  exact rangeHas_of_mem_blockAddrs (block_offset_lt hi hc) ((hf _).of_store hst hb)

/-- What a legal command writes is taken from bytes it reads (60_exceptions.md rule R167). -/
theorem takenFrom_in_reads {i : Instr} {l : Latched} {m : Memory} {pf : Platform} (hi : i.wellFormed = true)
    {st : Store} (hst : st ∈ (planOf i l m pf).stores) {b : Addr} (hb : b ∈ st.takenFrom) :
    planReads (planOf i l m pf) b = true := by
  cases i with
  | conv bps be =>
    have legal : bps = 8#8 ∨ bps = 16#8 := by simpa [Instr.wellFormed, bpsLegal] using hi
    simp only [planOf, convPlan, List.mem_flatMap, List.mem_range] at hst
    obtain ⟨k, hk, hst⟩ := hst
    simp only [planReads, planOf, convPlan, List.any_cons, List.any_nil, Bool.or_false]
    exact rangeHas_of_mem_blockAddrs hk ((convSample_takenFrom legal be l m k).of_store hst hb)
  | split8 ch => exact splitPlan_takenFrom (sample8_takenFrom m) hst hb
  | split16 ch be => exact splitPlan_takenFrom (sample16_takenFrom be m) hst hb
  | fnorm ch =>
    simp only [planOf] at hst ⊢
    by_cases hf : fnormFrames ch l = 0
    · simp [fnormPlan_eq_of_no_frame hf] at hst
    have stored : st ∈ fnormStores ch l m := by
      simp only [fnormPlan, if_neg hf] at hst
      exact (List.mem_ite_nil_right.1 hst).2
    simp only [fnormStores, List.mem_flatMap, List.mem_range] at stored
    obtain ⟨k, hk, c, hc, stored⟩ := stored
    simp only [planReads, fnormPlan_reads hf, List.any_cons, Nat.mul_assoc, Bool.or_eq_true]
    exact .inl (rangeHas_of_mem_blockAddrs (block_offset_lt hk hc) (takenFrom_of_storeFloat stored hb))

end Sys2Proof.Machine
end

section
/-! PROOF. The engine's step and the contract (20_memory.md rules R50, R53, R59, R67, R68): when it answers, what it
refuses, and what it leaves unchanged. -/

namespace Sys2Proof.Machine

open Sys2Proof

variable {s t : State} {i : Instr}

/-! When it answers -/

/-- The contract decides between an answer and a refusal. -/
theorem finish_iff_inContract (s : State) (p : Plan) :
    ((∃ t, s.finish p = .next t) ↔ InContract s p) ∧ ((∃ r, s.finish p = .refused r) ↔ ¬ InContract s p) := by
  rcases finish_cases s p with ⟨r, hb, e⟩ | ⟨hc, -, e⟩ | ⟨a, as, hc, -, e⟩
  · have hc : ¬ InContract s p := by simp [← contractBreach_eq_none, hb]
    simp [e, hc]
  · simp [e, hc]
  · simp [e, hc]

/-- Settles O28: the engine's step is the completion of the command's plan, which the contract alone decides on. -/
theorem engineRefusesExactlyOutsideTheContract : Obligations.EngineRefusesExactlyOutsideTheContract := by
  intro s i hp
  rw [exec_running i hp]
  exact finish_iff_inContract s _

/-! What it refuses -/

theorem planApart_eq_false_of_overlap {p : Plan} {a : Addr} (hr : planReads p a = true) (hw : planWrites p a = true) :
    planApart p = false := by
  obtain ⟨r, hr, hra⟩ := List.any_eq_true.1 hr
  obtain ⟨w, hw, hwa⟩ := List.any_eq_true.1 hw
  rw [← Bool.not_eq_true]
  intro h
  simp only [planApart, Bool.and_eq_true, List.all_eq_true] at h
  exact rangeApart_disjoint (h.2 w hw r hr) a ⟨hwa, hra⟩

/-- Away from the window, the overlap is the first breach found. -/
theorem contractBreach_of_not_apart {p : Plan} (ha : planApart p = false)
    (hw : ∀ b, planHas p b = true → rangeHas (windowRange s.platform) b = false) :
    contractBreach s p = some .illFormedFootprint := by
  have window := any_apart_false.2 hw
  simp [contractBreach, window, ha]

/-- Settles O27: a byte in both ranges breaks their being apart. -/
theorem overlappingFootprintIsRefused : Obligations.OverlappingFootprintIsRefused := by
  intro s i a hp hr hw hwin
  rw [exec_running i hp, State.finish, contractBreach_of_not_apart (planApart_eq_false_of_overlap hr hw) hwin]

/-- Without coherence the contract asks for every source byte to be written back. -/
theorem not_inContract_of_dirty_source {p : Plan} {a : Addr} (hc : s.platform.coherent = false) (hd : a ∈ s.hostDirty)
    (hr : planReads p a = true) : ¬ InContract s p := by
  intro h
  rcases h.writtenBack with coherent | clean
  · simp [hc] at coherent
  · simp [clean a hd] at hr

/-! What it leaves unchanged -/

/-- Both completions store to the write ranges only. -/
theorem finish_unchangedOutside {l : Latched} {m : Memory} {pf : Platform}
    (h : s.finish (planOf i l m pf) = .next t) : UnchangedOutside s t (planOf i l m pf).writes := by
  rcases finish_next h with rfl | ⟨a, as, -, rfl⟩
  · exact fun _ => applyStores_frame
  · exact fun _ => scatterStores_frame

/-- Settles O24: the two completions store in the write ranges and change the fields of the completion record. -/
theorem engineWritesOnlyItsWriteRanges : Obligations.EngineWritesOnlyItsWriteRanges := by
  intro s t i hp h
  rw [exec_running i hp] at h
  refine ⟨finish_unchangedOutside h, ?_⟩
  rcases finish_next h with rfl | ⟨a, as, -, rfl⟩ <;> rfl

end Sys2Proof.Machine
end

section
/-! PROOF. Other agents' accesses to system memory (20_memory.md rules R51, R63, R67): the write and the read of one
byte, said once, and what a read may show. -/

namespace Sys2Proof.Machine

open Sys2Proof

variable {s : State} {a : Addr}

/-! One access -/

theorem State.hostMemWrite_eq_next (hw : rangeHas (windowRange s.platform) a = false) (hg : s.guarded a = false)
    (b : Byte) :
    s.hostMemWrite a b =
      .next ((s.withMem (writeByte s.mem a b)).withMarks (if s.platform.coherent then s.hostDirty else a :: s.hostDirty)
        s.hostStale) := by
  simp [State.hostMemWrite, hw, hg]

theorem State.hostMemWrite_eq_refused (hw : rangeHas (windowRange s.platform) a = false) (hg : s.guarded a = true)
    (b : Byte) : s.hostMemWrite a b = .refused .footprintTouched := by
  simp [State.hostMemWrite, hw, hg]

/-- Pending inputs have no part in the contract. -/
theorem InContract.withInputs {p : Plan} (h : InContract s p) (q : List Input) : InContract (s.withInputs q) p :=
  ⟨h.writesShort, h.writesApart, h.readsApart, h.noWindow, h.noDevice, h.writtenBack⟩

theorem State.hostMemRead_eq_next (hw : rangeHas (windowRange s.platform) a = false) (hst : a ∉ s.hostStale)
    (hc : s.phase = .idle ∨ InContract s s.runningPlan) :
    s.hostMemRead a =
      .next ((s.useDraws 2).answer (some ((pickOne s.draws (readByte s.mem a) (s.otherViews a)).setWidth 32))) := by
  have no_breach : (if s.busy && planHas s.runningPlan a then contractBreach s s.runningPlan else none) = none := by
    rcases hc with idle | hc
    · simp [State.busy, idle]
    · simp [contractBreach_eq_none.2 hc]
  rw [State.hostMemRead, if_neg (by simp [hw]), if_neg (by simpa using hst), no_breach]

theorem State.hostMemRead_eq_refused (hw : rangeHas (windowRange s.platform) a = false) (hst : a ∈ s.hostStale) :
    s.hostMemRead a = .refused .cacheNotMaintained := by
  simp [State.hostMemRead, hw, hst]

/-! What a read may show -/

/-- Besides what memory holds: a byte from before an unobserved command, or one the running command may have made. -/
theorem State.mem_otherViews {v : Byte} :
    v ∈ s.otherViews a ↔ (∃ f ∈ s.unobserved, (a.toNat, v) ∈ f.old) ∨
      (s.phase = .running ∧ ∃ st ∈ s.runningPlan.stores, st.addr = a ∧
        drawnByte s.platform (s.draws + 1) st (readByte s.mem a) = v) := by
  have before (f : Flight) : v ∈ (f.old.filter fun c => c.1 == a.toNat).map (·.2) ↔ (a.toNat, v) ∈ f.old := by
    simp only [List.mem_map, List.mem_filter, beq_iff_eq]
    constructor
    · rintro ⟨c, ⟨hc, hca⟩, rfl⟩
      rwa [← hca]
    · exact fun h => ⟨_, ⟨h, rfl⟩, rfl⟩
  unfold State.otherViews
  rw [List.mem_append, List.mem_flatMap]
  simp only [before, State.busy, decide_eq_true_eq, List.mem_ite_nil_right, List.mem_map, List.mem_filter, beq_iff_eq,
    and_assoc]

/-- With nothing unobserved and no command running there is nothing else to see. -/
theorem State.otherViews_eq_nil (hp : s.phase = .idle) (hu : s.unobserved = []) : s.otherViews a = [] := by
  simp [State.otherViews, State.busy, hp, hu]

/-- Where the footprint of a legal command responds, each of its destination bytes is drawn old or final. -/
theorem drawnByte_old_or_final {i : Instr} {l : Latched} {m : Memory} {pf : Platform} (hi : i.wellFormed = true)
    (h : ∀ a, planHas (planOf i l m pf) a = true → responds pf a = true) {st : Store}
    (hst : st ∈ (planOf i l m pf).stores) (k : Nat) (old : Byte) :
    drawnByte pf k st old = old ∨ drawnByte pf k st old = st.val := by
  refine drawnByte_cases pf k st old fun b hb => h b ?_
  have read := takenFrom_in_reads hi hst hb
  rw [planReads] at read
  rw [planHas, planRanges, List.any_append, read, Bool.true_or]

/-! The statements -/

/-- Settles O48: the step is the host's write, which asks for the window and for the guarded footprints. -/
theorem hostWritesAreSeenOrRefused : Obligations.HostWritesAreSeenOrRefused := by
  intro s a b rest hi hw
  rw [step_of_inputs hi nofun]
  constructor <;> intro hg
  · exact ⟨_, State.hostMemWrite_eq_next (s := s.withInputs rest) hw hg b, fun x => readByte_writeByte s.mem a x b, rfl⟩
  · exact State.hostMemWrite_eq_refused (s := s.withInputs rest) hw hg b

/-- Settles O49: the read takes one of memory's byte, the old ones and what the running command may have made, and the
last is old or final. -/
theorem hostReadBeforeDoneIsOldOrFinal : Obligations.HostReadBeforeDoneIsOldOrFinal := by
  intro s a rest hi hrun hw hst
  have served : s.phase = .idle ∨ InContract (s.withInputs rest) s.runningPlan :=
    hrun.imp_right fun ⟨_, ready⟩ => ready.inContract.withInputs rest
  have drawn : pickOne s.draws (readByte s.mem a) (s.otherViews a) = readByte s.mem a ∨
      pickOne s.draws (readByte s.mem a) (s.otherViews a) ∈ s.otherViews a := List.mem_cons.1 (pickOne_mem _ _ _)
  rw [step_of_inputs hi nofun]
  refine ⟨_, _, State.hostMemRead_eq_next (s := s.withInputs rest) hw hst served, rfl, ?_⟩
  rcases drawn with memory | other
  · exact .inl memory
  rcases State.mem_otherViews.1 other with before | ⟨hp, st, hmem, ha, hv⟩
  · exact .inr (.inl before)
  rcases hrun with idle | ⟨legal, ready⟩
  · simp [idle] at hp
  rcases drawnByte_old_or_final legal ready.answered hmem (s.draws + 1) (readByte s.mem a) with old | final
  · exact .inl (hv.symm.trans old)
  · exact .inr (.inr ⟨hp, st, hmem, ha, hv.symm.trans final⟩)

/-- Settles O50: memory's byte is the only one to take. -/
theorem hostReadAfterObservedDoneIsMemory : Obligations.HostReadAfterObservedDoneIsMemory := by
  intro s a rest hi hp hu hw hst
  rw [step_of_inputs hi nofun]
  refine ⟨_, State.hostMemRead_eq_next (s := s.withInputs rest) hw hst (.inl hp), ?_⟩
  rw [State.otherViews_eq_nil (s := s.withInputs rest) hp hu]
  rfl

/-- Settles O51: the engine's step is outside the contract, and a read asks for the mark. -/
theorem missingCacheMaintenanceIsRefused : Obligations.MissingCacheMaintenanceIsRefused := by
  refine ⟨fun s i a hp hc hd hr t h => ?_, fun s a rest hi hw hst => ?_⟩
  · rw [exec_running i hp] at h
    exact not_inContract_of_dirty_source hc hd hr ((finish_iff_inContract s _).1.1 ⟨t, h⟩)
  · rw [step_of_inputs hi nofun]
    exact State.hostMemRead_eq_refused (s := s.withInputs rest) hw hst

end Sys2Proof.Machine
end

section
/-! PROOF. What one step does to system memory and to the guarded footprints (20_memory.md rules R51, R53, R63,
70_reset_and_hazards.md rule R199), said once, and the two whole-machine rules that follow from it. -/

namespace Sys2Proof.Machine

open Sys2Proof

/-! What is guarded -/

/-- The address lies in the footprint, whichever of its bytes respond (20_memory.md rule R52). -/
def footprintHas (p : Plan) (a : Addr) : Bool := (planFootprint p).any fun r => rangeHas r a

theorem State.guarded_iff {s : State} {a : Addr} :
    s.guarded a = true ↔ (s.phase = .running ∧ footprintHas s.runningPlan a = true) ∨
      ∃ f ∈ s.unobserved, (f.touched.any fun r => rangeHas r a) = true := by
  simp [State.guarded, State.busy, footprintHas]

/-- A write outside what is guarded leaves the pointer table, and with it the running footprint, as it is. -/
theorem State.guarded_withMem_writeByte {s : State} {a x : Addr} (b : Byte) (hx : s.guarded x = false)
    (hg : s.guarded a = true) : (s.withMem (writeByte s.mem x b)).guarded a = true := by
  rw [State.guarded_iff] at hg ⊢
  refine hg.imp_left fun ⟨hp, hf⟩ => ⟨hp, ?_⟩
  have outside : footprintHas s.runningPlan x = false := by
    rw [← Bool.not_eq_true] at hx ⊢
    exact fun h => hx (State.guarded_iff.2 (.inl ⟨hp, h⟩))
  exact (footprint_writeByte _ _ _ _ a x b outside).trans hf

/-- Which bytes respond does not matter to what is guarded. -/
theorem State.guarded_withSilent {s : State} {a : Addr} (rs : List Range) (hg : s.guarded a = true) :
    (s.withSilent rs).guarded a = true := by
  rw [State.guarded_iff] at hg ⊢
  exact hg.imp_left fun ⟨hp, hf⟩ => ⟨hp, (footprint_platform _ _ _ _ _ a).trans hf⟩

/-! What leaves memory and the footprints as they are -/

/-- From `s` to `t` no memory is written and no command ends: a running one runs on. -/
structure KeepsFootprints (s t : State) : Prop where
  mem : t.mem = s.mem
  platform : t.platform = s.platform
  unobserved : t.unobserved = s.unobserved
  running : s.phase = .running → t.phase = .running ∧ t.latched = s.latched

namespace KeepsFootprints

variable {s t : State}

theorem guarded (h : KeepsFootprints s t) {a : Addr} (hg : s.guarded a = true) : t.guarded a = true := by
  rw [State.guarded_iff] at hg ⊢
  rcases hg with ⟨hp, hf⟩ | hu
  · obtain ⟨running, latched⟩ := h.running hp
    exact .inl ⟨running, by rwa [State.runningPlan, latched, h.mem, h.platform]⟩
  · exact .inr (by rwa [h.unobserved])

/-- What changes neither memory nor the running command keeps the footprints. -/
theorem of_fields_eq (mem : t.mem = s.mem := by rfl) (platform : t.platform = s.platform := by rfl)
    (unobserved : t.unobserved = s.unobserved := by rfl) (phase : t.phase = s.phase := by rfl)
    (latched : t.latched = s.latched := by rfl) : KeepsFootprints s t :=
  ⟨mem, platform, unobserved, fun hp => ⟨phase.trans hp, latched⟩⟩

theorem of_withInputs {q : List Input} (h : KeepsFootprints (s.withInputs q) t) : KeepsFootprints s t :=
  ⟨h.mem, h.platform, h.unobserved, h.running⟩

/-- A CMD write makes no access to memory, whatever it is answered with (60_exceptions.md rules R161 to R164). -/
theorem of_writeCmd {v : Word} (h : s.writeCmd v = .next t) : KeepsFootprints s t := by
  cases hp : s.phase with
  | running =>
    simp only [State.writeCmd, hp, if_true] at h
    cases h
    exact .of_fields_eq
  | idle =>
    have none_runs : s.phase = .running → t.phase = .running ∧ t.latched = s.latched := by simp [hp]
    simp only [State.writeCmd, hp, reduceCtorEq, if_false] at h
    cases hd : decode v with
    | error r =>
      cases r
      rw [hd] at h
      cases h
      exact ⟨rfl, rfl, rfl, none_runs⟩
    | ok i =>
      rw [hd] at h
      have idle : (s.withCmd v).phase = .idle := hp
      rcases exec_idle i idle with ⟨code, val, -, e⟩ | ⟨-, op, be, bps, ch, e, -⟩ <;> cases e.symm.trans h
      · exact ⟨rfl, rfl, rfl, none_runs⟩
      · exact ⟨rfl, rfl, rfl, none_runs⟩

theorem of_hostWrite {off : BitVec 6} {bytes : Nat} {v : Word} (h : s.hostWrite off bytes v = .next t) :
    KeepsFootprints s t := by
  unfold State.hostWrite at h
  split at h
  · cases h
    exact .of_fields_eq
  split at h
  · cases h
  split at h
  · exact of_writeCmd h
  · cases h
    rw [State.writeReg_eq]
    exact .of_fields_eq

theorem of_windowAccess (h : s.windowAccess = .next t) : KeepsFootprints s t := by
  unfold State.windowAccess at h
  split at h <;> cases h
  exact .of_fields_eq

theorem of_hostMemRead {a : Addr} (h : s.hostMemRead a = .next t) : KeepsFootprints s t := by
  unfold State.hostMemRead at h
  split at h
  · exact of_windowAccess h
  split at h
  · cases h
  split at h <;> cases h
  exact .of_fields_eq

theorem of_cleanRange {r : Range} (h : s.cleanRange r = .next t) : KeepsFootprints s t := by
  unfold State.cleanRange at h
  split at h <;> cases h
  exact .of_fields_eq

theorem of_invalidateRange {r : Range} (h : s.invalidateRange r = .next t) : KeepsFootprints s t := by
  unfold State.invalidateRange at h
  split at h <;> cases h
  exact .of_fields_eq

end KeepsFootprints

/-! What a step can do to memory -/

/-- The next input is an observation of DONE = 1 (20_memory.md rule R63; log entry 13). -/
def State.ObservesDone (s : State) : Prop :=
  s.done = true ∧ ∃ rest, s.inputs = .regRead statusOffset 4 :: rest ∨ s.inputs = .waitDone :: rest ∨
    (s.doneIe = true ∧ s.inputs = .sampleIrq :: rest)

/-- `MemoryEffect s t`: the next state `t` of a step from `s`, told by what becomes of system memory and of the
footprints that are guarded. -/
inductive MemoryEffect (s t : State) : Prop
  /-- Nothing becomes of them. -/
  | kept (h : KeepsFootprints s t)
  /-- Another agent writes one byte (20_memory.md rule R51). -/
  | written (a : Addr) (b : Byte) (rest : List Input) (hi : s.inputs = .memWrite a b :: rest)
      (hg : s.guarded a = false) (h : KeepsFootprints (s.withMem (writeByte s.mem a b)) t)
  /-- Other bytes respond (60_exceptions.md rule R170). -/
  | silenced (rs : List Range) (h : KeepsFootprints (s.withSilent rs) t)
  /-- The running command completes, and its footprint awaits the observation (60_exceptions.md rules R165, R167). -/
  | completed (f : Flight) (hp : s.phase = .running) (hm : UnchangedOutside s t s.runningPlan.writes)
      (hf : f.touched = planFootprint s.runningPlan) (hu : t.unobserved = f :: s.unobserved)
  /-- DONE = 1 is observed (20_memory.md rule R63). -/
  | observed (h : s.ObservesDone) (hm : t.mem = s.mem)
  /-- Reset is asserted, and abandons the running command if there is one (70_reset_and_hazards.md rule R192). -/
  | reset (rest : List Input) (hi : s.inputs = .assertReset :: rest)
      (hm : t.mem = s.mem ∨ (s.phase = .running ∧ UnchangedOutside s t s.runningPlan.writes))

namespace MemoryEffect

variable {s t : State} {rest : List Input}

theorem of_engineStep (q : List Input) (h : (s.withInputs q).engineStep = .next t) : MemoryEffect s t := by
  rcases engineStep_cases (s.withInputs q) with ⟨hp, -, e⟩ | ⟨-, e⟩
  · have finished : (s.withInputs q).finish s.runningPlan = .next t := e.symm.trans h
    have unchanged : UnchangedOutside s t s.runningPlan.writes := finish_unchangedOutside (s := s.withInputs q) finished
    rcases finish_next finished with rfl | ⟨a, as, -, rfl⟩
    · exact .completed _ hp unchanged rfl rfl
    · exact .completed _ hp unchanged rfl rfl
  · cases e.symm.trans h
    exact .kept .of_fields_eq

/-- An access that sees DONE = 1 is an observation of it, and one that does not keeps every footprint. -/
theorem of_answer_observeIf (q : List Input) {seen : Bool} (h : seen = true → s.ObservesDone) (v : Option Word) :
    MemoryEffect s (((s.withInputs q).observeIf seen).answer v) := by
  cases seen with
  | true => exact .observed (h rfl) rfl
  | false => exact .kept .of_fields_eq

theorem of_hostRead {off : BitVec 6} {bytes : Nat}
    (ho : off = statusOffset → bytes = 4 → s.done = true → s.ObservesDone)
    (h : (s.withInputs rest).hostRead off bytes = .next t) : MemoryEffect s t := by
  unfold State.hostRead at h
  split at h
  · cases h
    exact .kept .of_fields_eq
  split at h
  · cases h
  next hl =>
    obtain ⟨four, -⟩ := accessLegal_iff.1 (by simpa using hl)
    cases h
    refine of_answer_observeIf rest (fun seen => ?_) _
    obtain ⟨status, done⟩ := Bool.and_eq_true_iff.1 seen
    exact ho (of_decide_eq_true status) four done

theorem of_hostMemWrite {a : Addr} {b : Byte} (hi : s.inputs = .memWrite a b :: rest)
    (h : (s.withInputs rest).hostMemWrite a b = .next t) : MemoryEffect s t := by
  unfold State.hostMemWrite at h
  split at h
  · exact .kept (KeepsFootprints.of_windowAccess h).of_withInputs
  split at h
  · cases h
  next hg =>
    cases h
    exact .written a b rest hi ((Bool.not_eq_true _).mp hg) .of_fields_eq

theorem of_assertReset (hi : s.inputs = .assertReset :: rest) (h : (s.withInputs rest).assertReset = .next t) :
    MemoryEffect s t := by
  unfold State.assertReset at h
  split at h
  next hp =>
    split at h <;> cases h
    exact .reset rest hi (.inr ⟨hp, fun _ => scatterStores_frame⟩)
  · cases h
    exact .reset rest hi (.inl rfl)

theorem of_serve {e : Input} (hi : s.inputs = e :: rest) (h : (s.withInputs rest).serve e = .next t) :
    MemoryEffect s t := by
  cases e with
  | regWrite off bytes v => exact .kept (KeepsFootprints.of_hostWrite h).of_withInputs
  | regRead off bytes =>
    exact of_hostRead (fun status four done => ⟨done, rest, .inl (by rw [hi, status, four])⟩) h
  | waitDone => exact of_hostRead (fun _ _ done => ⟨done, rest, .inr (.inl hi)⟩) h
  | sampleIrq =>
    cases h
    refine of_answer_observeIf rest (fun seen => ?_) _
    obtain ⟨done, enabled⟩ := Bool.and_eq_true_iff.1 seen
    exact ⟨done, rest, .inr (.inr ⟨enabled, hi⟩)⟩
  | memWrite a b => exact of_hostMemWrite hi h
  | memRead a => exact .kept (KeepsFootprints.of_hostMemRead h).of_withInputs
  | engine => exact of_engineStep rest h
  | assertReset => exact of_assertReset hi h
  | releaseReset =>
    cases h
    exact .kept .of_fields_eq
  | cacheClean r => exact .kept (KeepsFootprints.of_cleanRange h).of_withInputs
  | cacheInvalidate r => exact .kept (KeepsFootprints.of_invalidateRange h).of_withInputs
  | setSilent rs =>
    cases h
    exact .silenced rs .of_fields_eq

/-- Every step has one of the effects. -/
theorem of_step (h : step s = .next t) : MemoryEffect s t := by
  rcases step_cases s with ⟨e, -⟩ | ⟨i, rest, hi, e⟩
  · exact of_engineStep s.inputs (e.symm.trans h)
  · exact of_serve hi (e.symm.trans h)

end MemoryEffect

/-! The statements -/

theorem UnchangedOutside.planWrites_of_ne {s t : State} {p : Plan} (h : UnchangedOutside s t p.writes) {a : Addr}
    (ha : readByte t.mem a ≠ readByte s.mem a) : planWrites p a = true := by
  by_contra hw
  exact ha (h a ((Bool.not_eq_true _).mp hw))

/-- Settles O56: of the effects of a step, the engine's and the abandonment stay in the write ranges, and another
agent's write is the one byte. -/
theorem memoryChangesOnlyByEngineOrHostWrite : Obligations.MemoryChangesOnlyByEngineOrHostWrite := by
  intro s t a hstep ha
  have changed : t.mem ≠ s.mem := fun h => ha (by rw [h])
  cases MemoryEffect.of_step hstep with
  | kept h => exact absurd h.mem changed
  | written x b rest hi hg h =>
    have same : a = x := by
      by_contra other
      exact ha (by rw [h.mem]; exact readByte_writeByte_ne s.mem b other)
    exact .inr ⟨b, rest, same ▸ hi, same ▸ hg⟩
  | silenced rs h => exact absurd h.mem changed
  | completed f hp hm hf hu => exact .inl ⟨hp, hm.planWrites_of_ne ha⟩
  | observed h hm => exact absurd hm changed
  | reset rest hi hm =>
    rcases hm with kept | ⟨hp, hm⟩
    · exact absurd kept changed
    · exact .inl ⟨hp, hm.planWrites_of_ne ha⟩

/-- Settles O59: a completion hands the running footprint over to the unobserved ones, and only an observation and reset
drop these. -/
theorem guardedByteStaysGuardedUntilObserved : Obligations.GuardedByteStaysGuardedUntilObserved := by
  intro s t a hg hstep
  cases MemoryEffect.of_step hstep with
  | kept h => exact .inl (h.guarded hg)
  | written x b rest hi hx h => exact .inl (h.guarded (State.guarded_withMem_writeByte b hx hg))
  | silenced rs h => exact .inl (h.guarded (State.guarded_withSilent rs hg))
  | completed f hp hm hf hu =>
    refine .inl (State.guarded_iff.2 (.inr ?_))
    rw [hu, List.exists_mem_cons_iff, hf]
    exact (State.guarded_iff.1 hg).imp_left fun running => running.2
  | observed h hm => exact .inr (.inl h)
  | reset rest hi hm => exact .inr (.inr ⟨rest, hi⟩)

end Sys2Proof.Machine
end

section
/-! SUPPORT. The command word as its five fields (30_encoding.md rules R71, R82): what each field of a packed word
holds, what masking does to the fields, which words decode to which command, and which commands are spellings of one. -/

namespace Sys2Proof.Laws

open Sys2Proof

/-! The packed word -/

theorem packWord_getLsbD (op : BitVec 4) (be : Bool) (bps : BitVec 8) (ch : BitVec 16) (k : Nat) :
    (packWord op be bps ch).getLsbD k =
      if k < 4 then op.getLsbD k else if k = 4 then be else if k < 8 then false
      else if k < 16 then bps.getLsbD (k - 8) else ch.getLsbD (k - 16) := by
  have hop : 4 ≤ k → op.getLsbD k = false := BitVec.getLsbD_of_ge op k
  have hbps : 8 ≤ k - 8 → bps.getLsbD (k - 8) = false := BitVec.getLsbD_of_ge bps (k - 8)
  have hch : 16 ≤ k - 16 → ch.getLsbD (k - 16) = false := BitVec.getLsbD_of_ge ch (k - 16)
  simp only [packWord, BitVec.getLsbD_or, BitVec.getLsbD_shiftLeft, BitVec.getLsbD_setWidth, BitVec.getLsbD_ofBool]
  grind

@[simp] theorem opField_packWord (op : BitVec 4) (be : Bool) (bps : BitVec 8) (ch : BitVec 16) :
    opField (packWord op be bps ch) = op :=
  (packWord_op_rsv op be bps ch).1

@[simp] theorem beField_packWord (op : BitVec 4) (be : Bool) (bps : BitVec 8) (ch : BitVec 16) :
    beField (packWord op be bps ch) = be := by
  rw [beField, packWord_getLsbD, if_neg (by decide), if_pos rfl]

@[simp] theorem bpsField_packWord (op : BitVec 4) (be : Bool) (bps : BitVec 8) (ch : BitVec 16) :
    bpsField (packWord op be bps ch) = bps := by
  apply BitVec.eq_of_getLsbD_eq
  intro k hk
  have h4 : ¬8 + k < 4 := by omega
  have h5 : ¬8 + k = 4 := by omega
  have h16 : 8 + k < 16 := by omega
  simp [bpsField, packWord_getLsbD, hk, h4, h5, h16]

@[simp] theorem chField_packWord (op : BitVec 4) (be : Bool) (bps : BitVec 8) (ch : BitVec 16) :
    chField (packWord op be bps ch) = ch := by
  apply BitVec.eq_of_getLsbD_eq
  intro k hk
  have h4 : ¬16 + k < 4 := by omega
  have h5 : ¬16 + k = 4 := by omega
  have h8 : ¬16 + k < 8 := by omega
  simp [chField, packWord_getLsbD, hk, h4, h5, h8]

/-- A packed word is its four fields, RSV being 0 in every one. -/
theorem packWord_inj {op op' : BitVec 4} {be be' : Bool} {bps bps' : BitVec 8} {ch ch' : BitVec 16} :
    packWord op be bps ch = packWord op' be' bps' ch' ↔ op = op' ∧ be = be' ∧ bps = bps' ∧ ch = ch' := by
  constructor
  · intro h
    exact ⟨by simpa using congrArg opField h, by simpa using congrArg beField h, by simpa using congrArg bpsField h,
      by simpa using congrArg chField h⟩
  · rintro ⟨rfl, rfl, rfl, rfl⟩
    rfl

/-- A mask without RSV masks field by field. -/
theorem and_packWord (v : Word) (op : BitVec 4) (be : Bool) (bps : BitVec 8) (ch : BitVec 16) :
    v &&& packWord op be bps ch =
      packWord (opField v &&& op) (beField v && be) (bpsField v &&& bps) (chField v &&& ch) := by
  apply BitVec.eq_of_getLsbD_eq
  intro k hk
  simp only [BitVec.getLsbD_and, packWord_getLsbD, opField, beField, bpsField, chField, BitVec.getLsbD_extractLsb']
  grind

/-! The bits a command reads (30_encoding.md rules R73, R77) -/

open BitVec (allOnes)

theorem and_readMask_conv (v : Word) (bps : BitVec 8) (be : Bool) :
    v &&& readMask (.conv bps be) = packWord (opField v) (beField v && decide (bps = 16#8)) (bpsField v) 0#16 := by
  have mask : readMask (.conv bps be) = packWord (allOnes 4) (decide (bps = 16#8)) (allOnes 8) 0#16 := by
    by_cases h : bps = 16#8 <;> simp only [readMask, h] <;> decide
  rw [mask, and_packWord, BitVec.and_allOnes, BitVec.and_allOnes, BitVec.and_zero]

theorem and_readMask_split8 (v : Word) (ch : BitVec 16) :
    v &&& readMask (.split8 ch) = packWord (opField v) false 0#8 (chField v) := by
  have mask : readMask (.split8 ch) = packWord (allOnes 4) false 0#8 (allOnes 16) := by simp only [readMask]; decide
  rw [mask, and_packWord, BitVec.and_allOnes, Bool.and_false, BitVec.and_zero, BitVec.and_allOnes]

theorem and_readMask_split16 (v : Word) (ch : BitVec 16) (be : Bool) :
    v &&& readMask (.split16 ch be) = packWord (opField v) (beField v) 0#8 (chField v) := by
  have mask : readMask (.split16 ch be) = packWord (allOnes 4) true 0#8 (allOnes 16) := by simp only [readMask]; decide
  rw [mask, and_packWord, BitVec.and_allOnes, Bool.and_true, BitVec.and_zero, BitVec.and_allOnes]

theorem and_readMask_fnorm (v : Word) (ch : BitVec 16) :
    v &&& readMask (.fnorm ch) = packWord (opField v) false 0#8 (chField v) :=
  and_readMask_split8 v ch

/-! The decoder -/

/-- The operands of the command are what the word's fields hold. -/
def OperandsIn (v : Word) : Instr → Prop
  | .conv bps be => bpsField v = bps ∧ beField v = be
  | .split8 ch => chField v = ch
  | .split16 ch be => chField v = ch ∧ beField v = be
  | .fnorm ch => chField v = ch

/-- A word decodes to the command whose opcode OP holds, with the operands that its fields hold, and to no other
(30_encoding.md rule R79). -/
theorem decode_eq_ok_iff {v : Word} {i : Instr} : decode v = .ok i ↔ opField v = i.opcode ∧ OperandsIn v i := by
  constructor
  · intro h
    simp only [decode] at h
    split_ifs at h with conv split8 split16 fnorm <;> cases h
    · exact ⟨conv, rfl, rfl⟩
    · exact ⟨split8, rfl⟩
    · exact ⟨split16, rfl, rfl⟩
    · exact ⟨fnorm, rfl⟩
  · rintro ⟨hop, hargs⟩
    cases i <;> simp_all [decode, OperandsIn, Instr.opcode]

/-- A word is refused where OP holds the opcode of no command (30_encoding.md rules R72, R80). -/
theorem decode_eq_error_iff {v : Word} {op : BitVec 4} :
    decode v = .error (.illegalOp op) ↔
      op = opField v ∧ op ≠ 1#4 ∧ op ≠ 2#4 ∧ op ≠ 3#4 ∧ op ≠ 4#4 := by
  constructor
  · intro h
    simp only [decode] at h
    split_ifs at h with conv split8 split16 fnorm
    cases h
    exact ⟨rfl, conv, split8, split16, fnorm⟩
  · rintro ⟨rfl, conv, split8, split16, fnorm⟩
    simp [decode, conv, split8, split16, fnorm]

/-! Spellings -/

/-- The bits a command reads hold its canonical word (30_encoding.md rules R77, R84). -/
theorem and_readMask_of_decode {v : Word} {i : Instr} (h : decode v = .ok i) : v &&& readMask i = i.canonicalWord := by
  obtain ⟨hop, hargs⟩ := decode_eq_ok_iff.1 h
  cases i with
  | conv bps be =>
    obtain ⟨rfl, rfl⟩ := hargs
    rw [and_readMask_conv, hop]
    rfl
  | split8 ch =>
    obtain rfl := hargs
    rw [and_readMask_split8, hop]
    rfl
  | split16 ch be =>
    obtain ⟨rfl, rfl⟩ := hargs
    rw [and_readMask_split16, hop]
    rfl
  | fnorm ch =>
    obtain rfl := hargs
    rw [and_readMask_fnorm, hop]
    rfl

/-- Every word that holds a command's canonical word in the bits the command reads decodes to a spelling of it. -/
theorem exists_spelling_of_and_readMask {w : Word} {i : Instr} (h : w &&& readMask i = i.canonicalWord) :
    ∃ j, decode w = .ok j ∧ j.canonical = i.canonical := by
  cases i with
  | conv bps be =>
    rw [and_readMask_conv] at h
    obtain ⟨hop, hbe, hbps, -⟩ := packWord_inj.1 h
    exact ⟨.conv bps (beField w), decode_eq_ok_iff.2 ⟨hop, hbps, rfl⟩, congrArg (Instr.conv bps) hbe⟩
  | split8 ch =>
    rw [and_readMask_split8] at h
    obtain ⟨hop, -, -, hch⟩ := packWord_inj.1 h
    exact ⟨.split8 ch, decode_eq_ok_iff.2 ⟨hop, hch⟩, rfl⟩
  | split16 ch be =>
    rw [and_readMask_split16] at h
    obtain ⟨hop, hbe, -, hch⟩ := packWord_inj.1 h
    exact ⟨.split16 ch be, decode_eq_ok_iff.2 ⟨hop, hch, hbe⟩, rfl⟩
  | fnorm ch =>
    rw [and_readMask_fnorm] at h
    obtain ⟨hop, -, -, hch⟩ := packWord_inj.1 h
    exact ⟨.fnorm ch, decode_eq_ok_iff.2 ⟨hop, hch⟩, rfl⟩

/-- Spellings differ only in BE of CONV, and only where BPS is not 16 (30_encoding.md rule R77). -/
theorem eq_or_conv_of_canonical_eq {i j : Instr} (h : i.canonical = j.canonical) :
    i = j ∨ ∃ bps be be', bps ≠ 16#8 ∧ i = .conv bps be ∧ j = .conv bps be' := by
  cases i <;> cases j <;> simp only [Instr.canonical, Instr.conv.injEq, reduceCtorEq] at h
  case conv.conv bps be bps' be' =>
    obtain ⟨rfl, hbe⟩ := h
    by_cases h16 : bps = 16#8
    · left
      simpa [h16] using hbe
    · exact .inr ⟨bps, be, be', h16, rfl, rfl⟩
  all_goals exact .inl h

end Sys2Proof.Laws
end

section
/-! PROOF. The command word: decoder and encoder, the bits a command reads, the reserved opcodes, the second names and
the assembler (30_encoding.md). -/

namespace Sys2Proof.Laws

open Sys2Proof

/-! Decoder and encoder -/

theorem opField_encode (i : Instr) : opField (encode i) = i.opcode := by
  cases i with
  | conv bps be => exact (OpField.conv bps be).1
  | split8 ch => exact (OpField.split8 ch).1
  | split16 ch be => exact (OpField.split16 ch be).1
  | fnorm ch => exact (OpField.fnorm ch).1

theorem operandsIn_encode (i : Instr) : OperandsIn (encode i) i := by
  cases i <;> simp [OperandsIn, encode]

/-- Settles O1: the encoder's word holds the command's opcode and operands in the fields the decoder reads. -/
theorem decodeOfEncodeIsTheCommand : Obligations.DecodeOfEncodeIsTheCommand := fun i =>
  decode_eq_ok_iff.2 ⟨opField_encode i, operandsIn_encode i⟩

/-- Settles O2: both words hold the canonical word of the command in the bits it reads. -/
theorem decodeIgnoresUnreadBits : Obligations.DecodeIgnoresUnreadBits := by
  intro v w i h
  have masked : v &&& readMask i = i.canonicalWord := and_readMask_of_decode h
  refine ⟨fun agree => exists_spelling_of_and_readMask (agree ▸ masked), ?_⟩
  simp only [canonical, h, masked]

theorem reserved_iff (op : BitVec 4) :
    (op ≠ 1#4 ∧ op ≠ 2#4 ∧ op ≠ 3#4 ∧ op ≠ 4#4) ↔ op = 0#4 ∨ 5 ≤ op.toNat := by
  revert op
  decide

/-- Settles O3: the opcodes of no command are the reserved ones. -/
theorem reservedOpcodesAreIllegal : Obligations.ReservedOpcodesAreIllegal := by
  intro v op
  rw [decode_eq_error_iff, reserved_iff, opField]

/-! Second names and written words -/

/-- Settles O4, row by row of the table. -/
theorem shortNamesExpandToTheirWords : Obligations.ShortNamesExpandToTheirWords := by
  unfold Obligations.ShortNamesExpandToTheirWords
  decide

/-- Settles O5, word by word. -/
theorem writtenWordsDecode : Obligations.WrittenWordsDecode := by
  unfold Obligations.WrittenWordsDecode
  decide

/-! The assembler -/

theorem asmBe_eq_some_iff {n : Nat} {b : Bool} : asmBe (some n) = some b ↔ n < 2 ∧ b = decide (n = 1) := by
  simp only [asmBe]
  split_ifs with h0 h1
  · simp [h0, eq_comm]
  · simp [h1, eq_comm]
  · simp; omega

/-- CONV's canonical word, with the condition on BPS put on the number written. -/
theorem canonicalWord_conv_ofNat {bps : Nat} (h : bps < 256) (b : Bool) :
    (Instr.conv (BitVec.ofNat 8 bps) b).canonicalWord =
      encode (.conv (BitVec.ofNat 8 bps) (b && decide (bps = 16))) := by
  have h16 : BitVec.ofNat 8 bps = 16#8 ↔ bps = 16 := by bv_omega
  simp only [Instr.canonicalWord, Instr.canonical, h16]

theorem assemble_conv_iff {bps : Nat} {be : Option Nat} {w : Word} :
    assemble (.conv bps be) = some w ↔
      bps < 256 ∧ ∃ b, asmBe be = some b ∧ w = encode (.conv (BitVec.ofNat 8 bps) (b && decide (bps = 16))) := by
  simp only [assemble, Option.bind_eq_some_iff]
  by_cases h : bps < 256
  · simp [h, canonicalWord_conv_ofNat h, eq_comm]
  · simp [h]

theorem assemble_split16_iff {ch : Nat} {be : Option Nat} {w : Word} :
    assemble (.split16 ch be) = some w ↔
      ch < 65536 ∧ ∃ b, asmBe be = some b ∧ w = encode (.split16 (BitVec.ofNat 16 ch) b) := by
  simp only [assemble, Option.bind_eq_some_iff]
  by_cases h : ch < 65536
  · simp [h, Instr.canonicalWord, Instr.canonical, eq_comm]
  · simp [h]

/-- Settles O6, line form by line form. -/
theorem assemblerEncodesWhatFits : Obligations.AssemblerEncodesWhatFits := by
  refine ⟨fun bps w => ?_, fun bps be w => ?_, fun ch w => ?_, fun ch w => ?_, fun ch be w => ?_, fun ch w => ?_⟩
  · rw [assemble_conv_iff]
    simp [asmBe]
  · rw [assemble_conv_iff]
    simp [asmBe_eq_some_iff, and_assoc]
  · simp [assemble, Instr.canonicalWord, Instr.canonical, eq_comm]
  · rw [assemble_split16_iff]
    simp [asmBe]
  · rw [assemble_split16_iff]
    simp [asmBe_eq_some_iff, and_assoc]
  · simp [assemble, Instr.canonicalWord, Instr.canonical, eq_comm]

end Sys2Proof.Laws
end

section
/-! PROOF. What exec answers for the spellings of one command, and CONV's check at acceptance (30_encoding.md rules R75,
R77). -/

namespace Sys2Proof.Machine

open Sys2Proof Sys2Proof.Laws

/-! Acceptance -/

/-- A command that fails its check is an error completion at acceptance (60_exceptions.md rules R161, R163). -/
theorem exec_idle_of_check {i : Instr} {s : State} {code : ErrCode} {val : Word} (hp : s.phase = .idle)
    (hc : checkOf i = some (code, val)) : exec i s = .next (s.clearRecord.completeError code val) := by
  rcases exec_idle i hp with ⟨code', val', hc', he⟩ | ⟨passes, -⟩
  · obtain ⟨rfl, rfl⟩ : code = code' ∧ val = val' := by simpa [hc] using hc'
    exact he
  · simp [hc] at passes

/-- Settles O15: the error completion overwrites the record that acceptance has cleared. -/
theorem convBitDepthCheckCompletesWithError : Obligations.ConvBitDepthCheckCompletesWithError := by
  intro s bps be hp h8 h16
  have fails : checkOf (.conv bps be) = some (.unsupportedFormat, bps.setWidth 32) := by
    simp [checkOf, convCheck, h8, h16]
  rw [exec_idle_of_check hp fails]
  rfl

theorem exec_conv_idle {s : State} (hp : s.phase = .idle) (bps : BitVec 8) (be : Bool) :
    exec (.conv bps be) s = .next (s.accept (convCheck bps) .conv be bps (chField s.cmd)) := by
  simp [exec, execConv, hp]

/-- Acceptance puts BE into L and looks at it nowhere else. -/
theorem State.accept_be (s : State) (bad : Option (ErrCode × Word)) (op : Op) (be be' : Bool) (bps : BitVec 8)
    (ch : BitVec 16) :
    let t := s.accept bad op be bps ch
    let u := s.accept bad op be' bps ch
    u = { t with latched := { t.latched with be := u.latched.be } } := by
  cases bad <;> rfl

theorem exec_idle_next (i : Instr) {s : State} (hp : s.phase = .idle) : ∃ t, exec i s = .next t := by
  rcases exec_idle i hp with ⟨code, val, -, he⟩ | ⟨-, op, be, bps, ch, he, -⟩
  · exact ⟨_, he⟩
  · exact ⟨_, he⟩

/-! Spellings -/

/-- CONV8 reads BE nowhere (30_encoding.md rule R77). -/
theorem convPlan_bps8_be (be be' : Bool) (l : Latched) (m : Memory) : convPlan 8#8 be l m = convPlan 8#8 be' l m := rfl

/-- Settles O58: the spellings to compare are of CONV with BPS not 16; where it is legal its plan reads no BE, and
acceptance only latches it. -/
theorem spellingsBehaveAlike : Obligations.SpellingsBehaveAlike := by
  intro s i j hij
  rcases eq_or_conv_of_canonical_eq hij with rfl | ⟨bps, be, be', h16, rfl, rfl⟩
  · refine ⟨fun _ _ => rfl, fun hp => ?_⟩
    obtain ⟨t, ht⟩ := exec_idle_next i hp
    exact ⟨t, t, ht, ht, rfl⟩
  · constructor
    · intro hp legal
      have h8 : bps = 8#8 := by simpa [Instr.wellFormed, bpsLegal, h16] using legal
      rw [exec_running _ hp, exec_running _ hp, planOf, planOf, h8, convPlan_bps8_be]
    · intro hp
      exact ⟨_, _, exec_conv_idle hp bps be, exec_conv_idle hp bps be', State.accept_be s _ _ be be' _ _⟩

end Sys2Proof.Machine
end

section
/-! PROOF. CONV's completion, its byte order, and the completion of a command without a whole sample or frame
(40_conv.md rules R101 to R107, 41_split.md rules R121, R125, 42_fnorm.md rule R143). -/

namespace Sys2Proof.Machine

open Sys2Proof

variable {s : State}

/-! CONV's elements -/

/-- A successful completion leaves in memory every native sample that its plan stores (20_memory.md rule R55). -/
theorem EngineReady.readHalf_completeOk {i : Instr} {l : Latched} {m : Memory} {pf : Platform}
    (h : EngineReady s (planOf i l m pf)) {d : Addr} {x : Sample}
    (hx : ∀ st ∈ storeSample d x, st ∈ (planOf i l m pf).stores) :
    readHalf (s.completeOk (planOf i l m pf)).mem d = x.val := by
  rw [State.completeOk_mem]
  exact readHalf_of_storeSample (stores_nodup h.inContract) hx

theorem storeSample_mem_convPlan {bps : BitVec 8} {l : Latched} {i : Nat} (hi : i < convCount bps l) (be : Bool)
    (m : Memory) :
    ∀ st ∈ storeSample (addrPlus l.dst0 (2 * i)) (convSample bps be l m i), st ∈ (convPlan bps be l m).stores :=
  fun _ hst => List.mem_flatMap.2 ⟨i, List.mem_range.2 hi, hst⟩

theorem sample16_val (be : Bool) (m : Memory) (a : Addr) :
    (sample16 be m a).val =
      if be then readByte m a ++ readByte m (addrPlus a 1) else readByte m (addrPlus a 1) ++ readByte m a := by
  cases be <;> rfl

/-- Raw sample i widened, with its bytes counted from the start of the stream (40_conv.md rules R102 to R104). -/
theorem convSample_val (bps : BitVec 8) (be : Bool) (l : Latched) (m : Memory) (i : Nat) :
    (convSample bps be l m i).val =
      if bps = 8#8 then (readByte m (addrPlus l.src i)).setWidth 16
      else if be then readByte m (addrPlus l.src (2 * i)) ++ readByte m (addrPlus l.src (2 * i + 1))
      else readByte m (addrPlus l.src (2 * i + 1)) ++ readByte m (addrPlus l.src (2 * i)) := by
  unfold convSample
  split
  · rfl
  · rw [sample16_val, addrPlus_addrPlus]

/-- Settles O18: the plan of CONV stores every widened sample, and its write range is the output buffer. -/
theorem convCompletesWithWidenedSamples : Obligations.ConvCompletesWithWidenedSamples := by
  intro s bps be _ (ready : EngineReady s (planOf (.conv bps be) s.latched s.mem s.platform)) l n
  have finished := ready.finish_eq
  refine ⟨_, (exec_running _ ready.running).trans finished, completeOk_completedFrom s _, fun i hi => ?_,
    finish_unchangedOutside finished⟩
  rw [← convSample_val]
  exact ready.readHalf_completeOk (storeSample_mem_convPlan hi be s.mem)

/-- Settles O33: CONV puts the two bytes of a sample together in the order they were written in. -/
theorem endiannessRoundTrip : Obligations.EndiannessRoundTrip := by
  intro s be n v ready hlen hsrc
  obtain ⟨t, he, hfrom, hsamples, -⟩ := convCompletesWithWidenedSamples s 16#8 be (.inr rfl) ready
  have count : s.latched.len.toNat / ((16#8).toNat / 8) = n := by
    rw [hlen]
    exact Nat.mul_div_cancel_left n (by decide)
  rw [count] at hfrom hsamples
  refine ⟨t, he, ?_, fun i hi => ?_⟩
  · have fits : n < 2 ^ 32 := by have := s.latched.len.isLt; omega
    rw [hfrom]
    exact Nat.mod_eq_of_lt fits
  · obtain ⟨first, second⟩ := hsrc i hi
    rw [hsamples i hi, first, second]
    cases be <;> exact half_of_bytes (v i)

/-! A command without a whole sample or frame -/

/-- The plan covers no byte, stores none and makes no element. -/
structure Plan.IsEmpty (p : Plan) : Prop where
  ranges : ∀ r ∈ planRanges p, r.len = 0
  stores : p.stores = []
  count : p.count = 0

theorem rangeHas_of_len_zero {r : Range} (h : r.len = 0) (a : Addr) : rangeHas r a = false := by
  simp [rangeHas, h]

namespace Plan.IsEmpty

variable {p : Plan}

theorem planHas_eq_false (h : p.IsEmpty) (a : Addr) : planHas p a = false :=
  List.any_eq_false.2 fun r hr => by simp [rangeHas_of_len_zero (h.ranges r hr)]

theorem planReads_eq_false (h : p.IsEmpty) (a : Addr) : planReads p a = false :=
  List.any_eq_false.2 fun r hr => by simp [rangeHas_of_len_zero (h.ranges r (List.mem_append_left _ hr))]

theorem write_len (h : p.IsEmpty) {w : Range} (hw : w ∈ p.writes) : w.len = 0 :=
  h.ranges w (List.mem_append_right _ hw)

/-- The contract asks nothing of a footprint without a byte, wherever its ranges begin. -/
theorem inContract (h : p.IsEmpty) (s : State) : InContract s p where
  writesShort w hw := by simp [h.write_len hw]
  writesApart := List.pairwise_of_forall_mem_list fun w hw v _ a => by simp [rangeHas_of_len_zero (h.write_len hw)]
  readsApart a := by simp [h.planReads_eq_false a]
  noWindow a ha := by simp [h.planHas_eq_false a] at ha
  noDevice a ha := by simp [h.planHas_eq_false a] at ha
  writtenBack := .inr fun a _ => h.planReads_eq_false a

theorem engineReady (h : p.IsEmpty) (hp : s.phase = .running) : EngineReady s p where
  running := hp
  inContract := h.inContract s
  answered a ha := by simp [h.planHas_eq_false a] at ha

theorem exec_completes {i : Instr} (h : (planOf i s.latched s.mem s.platform).IsEmpty) (hp : s.phase = .running) :
    ∃ t, exec i s = .next t ∧ t.mem = s.mem ∧ CompletedFrom s t 0 := by
  refine ⟨_, (exec_running i hp).trans (h.engineReady hp).finish_eq, ?_, ?_⟩
  · rw [State.completeOk_mem, h.stores, applyStores]
  · rw [← h.count]
    exact completeOk_completedFrom s _

end Plan.IsEmpty

theorem convPlan_isEmpty {bps : BitVec 8} {l : Latched} (h : convCount bps l = 0) (be : Bool) (m : Memory) :
    (convPlan bps be l m).IsEmpty where
  ranges := by simp [planRanges, convPlan, h]
  stores := by simp [convPlan, h]
  count := h

theorem splitPlan_isEmpty {w : Nat} {ch : BitVec 16} {l : Latched} (h : splitFrames w ch l = 0) (f : Addr → Sample) :
    (splitPlan w f ch l).IsEmpty where
  ranges := by simp +contextual [planRanges, splitPlan, h, or_imp]
  stores := by simp [splitPlan, h]
  count := h

theorem fnormPlan_isEmpty {ch : BitVec 16} {l : Latched} (h : fnormFrames ch l = 0) (m : Memory) (pf : Platform) :
    (fnormPlan ch l m pf).IsEmpty := by
  rw [fnormPlan_eq_of_no_frame h]
  exact ⟨by simp [planRanges], rfl, rfl⟩

/-- Settles O22: below the length of one sample or frame the plan is empty, and an empty plan always completes. -/
theorem emptyCommandsCompleteWithoutAccess : Obligations.EmptyCommandsCompleteWithoutAccess := by
  intro s hp len empty
  refine ⟨fun bps be _ short => ?_, fun ch _ short => ?_, fun ch be _ short => ?_, fun ch short => ?_⟩
  · have noSample : convCount bps s.latched = 0 := Nat.div_eq_of_lt short
    exact (convPlan_isEmpty noSample be s.mem).exec_completes (i := .conv bps be) hp
  · have noFrame : splitFrames 1 ch s.latched = 0 := Nat.div_eq_of_lt (by rwa [Nat.one_mul])
    exact (splitPlan_isEmpty noFrame (sample8 s.mem)).exec_completes (i := .split8 ch) hp
  · have noFrame : splitFrames 2 ch s.latched = 0 := Nat.div_eq_of_lt short
    exact (splitPlan_isEmpty noFrame (sample16 be s.mem)).exec_completes (i := .split16 ch be) hp
  · have noFrame : fnormFrames ch s.latched = 0 := Nat.div_eq_of_lt short
    exact (fnormPlan_isEmpty noFrame s.mem s.platform).exec_completes (i := .fnorm ch) hp

end Sys2Proof.Machine
end

section
/-! PROOF. The channel splitter: its check at acceptance, its completion, and the two laws that tie it to DST1_ADDR and
to CONV (41_split.md rules R120 to R132). -/

namespace Sys2Proof.Machine

open Sys2Proof

variable {s u : State}

/-! Acceptance -/

theorem splitCheck_fails {ch : BitVec 16} (h1 : ch ≠ 1#16) (h2 : ch ≠ 2#16) :
    splitCheck ch = some (.unsupportedFormat, ch.setWidth 32) := by
  simp [splitCheck, h1, h2]

theorem splitCheck_passes {ch : BitVec 16} (h : ch = 1#16 ∨ ch = 2#16) : splitCheck ch = none := if_pos h

/-- A command that passes its check is latched into the cleared record (60_exceptions.md rule R161). -/
theorem exec_idle_of_checkOf_none {i : Instr} (hp : s.phase = .idle) (passes : checkOf i = none) :
    ∃ op be bps ch, exec i s = .next (s.clearRecord.latch op be bps ch) := by
  rcases exec_idle i hp with ⟨code, val, fails, -⟩ | ⟨-, op, be, bps, ch, he, -⟩
  · simp [passes] at fails
  · exact ⟨op, be, bps, ch, he⟩

/-- Settles O14: both commands make the one check, and it decides between the error completion and the latched
command. -/
theorem splitChannelCheckIsTheOnlyValidation : Obligations.SplitChannelCheckIsTheOnlyValidation := by
  intro s ch be hp
  refine ⟨fun h1 h2 => ?_, fun legal i hi => ?_⟩
  · have fails := splitCheck_fails h1 h2
    exact ⟨exec_idle_of_check (i := .split8 ch) hp fails, exec_idle_of_check (i := .split16 ch be) hp fails⟩
  · have passes : checkOf i = none := by
      simp only [List.mem_cons, List.not_mem_nil, or_false] at hi
      rcases hi with rfl | rfl <;> exact splitCheck_passes legal
    obtain ⟨_, _, _, _, he⟩ := exec_idle_of_checkOf_none hp passes
    exact ⟨_, he, rfl, rfl, rfl, rfl⟩

/-! Completion -/

/-- Sample c of frame i goes to element i of the buffer of channel c (41_split.md rules R121, R125). -/
theorem storeSample_mem_splitPlan {w : Nat} {ch : BitVec 16} {l : Latched} {i c : Nat}
    (hi : i < splitFrames w ch l) (hc : c < ch.toNat) (sampleAt : Addr → Sample) :
    ∀ st ∈ storeSample (addrPlus (splitDest l c) (2 * i)) (sampleAt (addrPlus l.src (w * (ch.toNat * i + c)))),
      st ∈ (splitPlan w sampleAt ch l).stores :=
  fun _ hst => List.mem_flatMap.2 ⟨i, List.mem_range.2 hi, List.mem_flatMap.2 ⟨c, List.mem_range.2 hc, hst⟩⟩

/-- The buffers of the channels: DST1 is one only where CH = 2 (41_split.md rule R132). -/
theorem splitPlan_writes {ch : BitVec 16} (hch : ch = 1#16 ∨ ch = 2#16) (w : Nat) (sampleAt : Addr → Sample)
    (l : Latched) :
    (splitPlan w sampleAt ch l).writes =
      if ch = 1#16 then [⟨l.dst0, 2 * splitFrames w ch l⟩]
      else [⟨l.dst0, 2 * splitFrames w ch l⟩, ⟨l.dst1, 2 * splitFrames w ch l⟩] := by
  rcases hch with rfl | rfl <;> simp [splitPlan, splitDest, List.range_succ]

/-- What a ready split completes with, for any width and any reading of the samples: SPLIT8 and SPLIT16 are two uses
of it. -/
theorem exec_split_completes {i : Instr} {w : Nat} {sampleAt : Addr → Sample} {ch : BitVec 16}
    (hplan : planOf i s.latched s.mem s.platform = splitPlan w sampleAt ch s.latched)
    (ready : EngineReady s (splitPlan w sampleAt ch s.latched)) :
    ∃ t, exec i s = .next t ∧ CompletedFrom s t (splitFrames w ch s.latched) ∧
      (∀ f c, f < splitFrames w ch s.latched → c < ch.toNat →
        readHalf t.mem (addrPlus (splitDest s.latched c) (2 * f)) =
          (sampleAt (addrPlus s.latched.src (w * (ch.toNat * f + c)))).val) ∧
      UnchangedOutside s t (splitPlan w sampleAt ch s.latched).writes := by
  rw [← hplan] at ready
  have finished := ready.finish_eq
  refine ⟨_, (exec_running i ready.running).trans finished, ?_, fun f c hf hc => ?_, ?_⟩
  · rw [hplan]
    exact completeOk_completedFrom s _
  · refine ready.readHalf_completeOk ?_
    rw [hplan]
    exact storeSample_mem_splitPlan hf hc sampleAt
  · rw [← hplan]
    exact finish_unchangedOutside finished

/-- Settles O19: the split of one-byte samples, each zero-extended. -/
theorem split8CompletesWithPlanarSamples : Obligations.Split8CompletesWithPlanarSamples := by
  intro s ch hch ready l n
  have frames : splitFrames 1 ch l = n := by rw [splitFrames, Nat.one_mul]
  obtain ⟨t, he, hfrom, hsamples, hframe⟩ := exec_split_completes (i := .split8 ch) rfl ready
  rw [splitPlan_writes hch] at hframe
  rw [frames] at hfrom hsamples hframe
  refine ⟨t, he, hfrom, fun f c hf hc => ?_, hframe⟩
  have sample := hsamples f c hf hc
  rwa [Nat.one_mul] at sample

/-- Settles O20: the split of two-byte samples, each put together by BE. -/
theorem split16CompletesWithPlanarSamples : Obligations.Split16CompletesWithPlanarSamples := by
  intro s ch be hch ready l n
  obtain ⟨t, he, hfrom, hsamples, hframe⟩ := exec_split_completes (i := .split16 ch be) rfl ready
  rw [splitPlan_writes hch] at hframe
  refine ⟨t, he, hfrom, fun f c hf hc => ?_, hframe⟩
  have sample := hsamples f c hf hc
  rwa [sample16_val, addrPlus_addrPlus, Nat.mul_add, ← Nat.mul_assoc] at sample

/-! DST1_ADDR -/

/-- With one channel every destination is in the first buffer (41_split.md rule R132). -/
theorem splitPlan_mono_dst1 (w : Nat) (sampleAt : Addr → Sample) (l : Latched) (x : Word) :
    splitPlan w sampleAt 1#16 { l with dst1 := x } = splitPlan w sampleAt 1#16 l := by
  simp [splitPlan, splitFrames, splitDest]

/-- Settles O29: the plan is the same, and neither the engine's checks nor its completions look at L. -/
theorem monoSplitIgnoresDst1 : Obligations.MonoSplitIgnoresDst1 := by
  intro s be x hp other same
  have same_of_plan {i : Instr} (hplan : planOf i (other s).latched (other s).mem (other s).platform =
      planOf i s.latched s.mem s.platform) : same i := by
    have running : (other s).phase = .running := hp
    simp only [same]
    rw [exec_running i hp, exec_running i running, hplan]
    exact finish_commutes (f := other) rfl rfl rfl fun _ _ => rfl
  exact ⟨same_of_plan (splitPlan_mono_dst1 1 (sample8 s.mem) s.latched x),
    same_of_plan (splitPlan_mono_dst1 2 (sample16 be s.mem) s.latched x)⟩

/-! The split and CONV -/

theorem convCount_lt (bps : BitVec 8) (l : Latched) : convCount bps l < 2 ^ 32 :=
  (Nat.div_le_self _ _).trans_lt l.len.isLt

/-- Whole frames are counted from whole raw samples (41_split.md rule R130). -/
theorem splitFrames_eq_convCount_div (bps : BitVec 8) (ch : BitVec 16) (l : Latched) :
    splitFrames (convWidth bps) ch l = convCount bps l / ch.toNat :=
  (Nat.div_div_eq_div_mul _ _ _).symm

/-- A split that reads CONV's raw samples makes CONV's elements, de-interleaved (41_split.md rule R130). -/
theorem split_deinterleaves_conv {bps : BitVec 8} {be : Bool} {ch : BitVec 16} {split : Instr}
    {sampleAt : Addr → Sample} (hlen : s.latched.len = u.latched.len)
    (hplan : planOf split u.latched u.mem u.platform = splitPlan (convWidth bps) sampleAt ch u.latched)
    (hsample : ∀ k, sampleAt (addrPlus u.latched.src (convWidth bps * k)) = convSample bps be s.latched s.mem k)
    (conv_ready : EngineReady s (planOf (.conv bps be) s.latched s.mem s.platform))
    (split_ready : EngineReady u (planOf split u.latched u.mem u.platform)) :
    ∃ t v, exec (.conv bps be) s = .next t ∧ exec split u = .next v ∧
      v.outCount.toNat = t.outCount.toNat / ch.toNat ∧
      ∀ f c, f < v.outCount.toNat → c < ch.toNat →
        readHalf v.mem (addrPlus (splitDest u.latched c) (2 * f)) =
          readHalf t.mem (addrPlus s.latched.dst0 (2 * (ch.toNat * f + c))) := by
  rw [hplan] at split_ready
  obtain ⟨v, hv, hfrom, hsplit, -⟩ := exec_split_completes hplan split_ready
  have frames : splitFrames (convWidth bps) ch u.latched = convCount bps s.latched / ch.toNat := by
    rw [splitFrames_eq_convCount_div, convCount, convCount, hlen]
  rw [frames] at hfrom hsplit
  have count_fits := convCount_lt bps s.latched
  have split_count : v.outCount.toNat = convCount bps s.latched / ch.toNat := by
    rw [hfrom]
    exact Nat.mod_eq_of_lt ((Nat.div_le_self _ _).trans_lt count_fits)
  refine ⟨_, v, (exec_running _ conv_ready.running).trans conv_ready.finish_eq, hv, ?_, fun f c hf hc => ?_⟩
  · rw [split_count, State.completeOk_outCount]
    exact congrArg (· / ch.toNat) (Nat.mod_eq_of_lt count_fits).symm
  · rw [split_count] at hf
    have in_stream : ch.toNat * f + c < convCount bps s.latched :=
      (block_offset_lt hf hc).trans_le (Nat.mul_div_le _ _)
    rw [hsplit f c hf hc, hsample]
    exact (conv_ready.readHalf_completeOk (storeSample_mem_convPlan in_stream be s.mem)).symm

/-- Settles O32: SPLIT8 reads the raw samples of CONV8, and SPLIT16 those of CONV16 with the same BE. -/
theorem splitEqualsConvThenDeinterleave : Obligations.SplitEqualsConvThenDeinterleave := by
  intro s u ch be _ hmem hsrc hlen fused
  have samples8 (k : Nat) : sample8 u.mem (addrPlus u.latched.src (convWidth 8#8 * k)) =
      convSample 8#8 be s.latched s.mem k := by
    simp [convSample, convWidth, hmem, hsrc]
  have samples16 (k : Nat) : sample16 be u.mem (addrPlus u.latched.src (convWidth 16#8 * k)) =
      convSample 16#8 be s.latched s.mem k := by
    simp [convSample, convWidth, hmem, hsrc]
  exact ⟨split_deinterleaves_conv hlen rfl samples8, split_deinterleaves_conv hlen rfl samples16⟩

end Sys2Proof.Machine
end

section
/-! PROOF. FNORM: the float pattern of a sample, the check at acceptance, and the completion (42_fnorm.md rules R140 to
R149). -/

namespace Sys2Proof.Machine

open Sys2Proof

/-! The fields of a packed float -/

/-- Without its leading bit a magnitude of k + 1 bits is below 2^k, and the shift makes that the width of the field. -/
theorem floatFraction_lt {mag : Nat} (hk : mag.log2 ≤ 15) : (mag - 2 ^ mag.log2) * 2 ^ (23 - mag.log2) < 2 ^ 23 := by
  have below : mag - 2 ^ mag.log2 < 2 ^ mag.log2 := by
    have := mag.lt_log2_self
    omega
  calc (mag - 2 ^ mag.log2) * 2 ^ (23 - mag.log2) < 2 ^ mag.log2 * 2 ^ (23 - mag.log2) :=
        Nat.mul_lt_mul_of_pos_right below (by positivity)
    _ = 2 ^ 23 := pow_mul_pow_sub 2 (by omega)

/-- The three fields do not overlap, so putting them together is adding them (42_fnorm.md rule R142). -/
theorem packFloat_toNat (sgn : Bool) {mag : Nat} (hk : mag.log2 ≤ 15) :
    (packFloat sgn mag).toNat =
      sgn.toNat * 2 ^ 31 + ((mag.log2 + 112) * 2 ^ 23 + (mag - 2 ^ mag.log2) * 2 ^ (23 - mag.log2)) := by
  have fraction_fits := floatFraction_lt hk
  simp only [packFloat, BitVec.toNat_or]
  generalize mag.log2 = k at *
  have sign : ((BitVec.ofBool sgn).setWidth 32 <<< 31).toNat = sgn.toNat <<< 31 := by cases sgn <;> rfl
  have exponent : (BitVec.ofNat 32 (k + 112) <<< 23).toNat = (k + 112) <<< 23 := by
    simp only [BitVec.toNat_shiftLeft, BitVec.toNat_ofNat, Nat.shiftLeft_eq]
    omega
  have fraction : (BitVec.ofNat 32 (mag - 2 ^ k) <<< (23 - k)).toNat = (mag - 2 ^ k) * 2 ^ (23 - k) := by
    have unshifted : mag - 2 ^ k ≤ (mag - 2 ^ k) * 2 ^ (23 - k) := Nat.le_mul_of_pos_right _ (by positivity)
    rw [BitVec.toNat_shiftLeft, BitVec.toNat_ofNat, Nat.shiftLeft_eq, Nat.mod_eq_of_lt (a := mag - 2 ^ k) (by omega)]
    exact Nat.mod_eq_of_lt (by omega)
  have below_sign : (k + 112) <<< 23 + (mag - 2 ^ k) * 2 ^ (23 - k) < 2 ^ 31 := by rw [Nat.shiftLeft_eq]; omega
  rw [sign, exponent, fraction, Nat.or_assoc, ← Nat.shiftLeft_add_eq_or_of_lt fraction_fits,
    ← Nat.shiftLeft_add_eq_or_of_lt below_sign, Nat.shiftLeft_eq, Nat.shiftLeft_eq]

section Fields

variable (sgn : Bool) {mag : Nat} (hk : mag.log2 ≤ 15)

include hk

theorem packFloat_sign : (packFloat sgn mag).getLsbD 31 = sgn := by
  have fraction_fits := floatFraction_lt hk
  rw [BitVec.getLsbD, packFloat_toNat sgn hk, Nat.testBit_eq_decide_div_mod_eq]
  cases sgn
  · simp only [Bool.toNat_false, decide_eq_false_iff_not]
    omega
  · simp only [Bool.toNat_true, decide_eq_true_eq]
    omega

theorem packFloat_exponent : ((packFloat sgn mag).extractLsb' 23 8).toNat = mag.log2 + 112 := by
  have fraction_fits := floatFraction_lt hk
  rw [BitVec.extractLsb'_toNat, packFloat_toNat sgn hk, Nat.shiftRight_eq_div_pow]
  omega

theorem packFloat_fraction :
    ((packFloat sgn mag).extractLsb' 0 23).toNat = (mag - 2 ^ mag.log2) * 2 ^ (23 - mag.log2) := by
  have fraction_fits := floatFraction_lt hk
  rw [BitVec.extractLsb'_toNat, packFloat_toNat sgn hk, Nat.shiftRight_zero]
  omega

/-- The significand is mag / 2^k and the exponent puts back the 2^k (42_fnorm.md rule R142). -/
theorem floatValue_packFloat (h0 : mag ≠ 0) :
    floatValue (packFloat sgn mag) = (if sgn then -1 else 1) * ((mag : ℚ) / 32768) := by
  have lead : 2 ^ mag.log2 ≤ mag := Nat.log2_self_le h0
  have significand : 1 + (((mag - 2 ^ mag.log2) * 2 ^ (23 - mag.log2) : ℕ) : ℚ) / 2 ^ 23 = mag / 2 ^ mag.log2 := by
    have width : (2 : ℚ) ^ 23 = 2 ^ mag.log2 * 2 ^ (23 - mag.log2) := (pow_mul_pow_sub 2 (by omega)).symm
    rw [width]
    push_cast [lead]
    field_simp
    ring
  have scale : (2 : ℚ) ^ (((mag.log2 + 112 : ℕ) : ℤ) - 127) = 2 ^ mag.log2 / 32768 := by
    have unbiased : ((mag.log2 + 112 : ℕ) : ℤ) - 127 = mag.log2 - (15 : ℕ) := by omega
    rw [unbiased, zpow_sub₀ two_ne_zero, zpow_natCast, zpow_natCast]
    norm_num
  simp only [floatValue, packFloat_sign sgn hk, packFloat_exponent sgn hk, packFloat_fraction sgn hk, significand,
    scale]
  rw [if_neg (by omega), mul_assoc, div_mul_div_cancel₀ (by positivity)]

end Fields

/-! The pattern of a sample -/

theorem log2_natAbs_toInt_le {u : Half} (h : u.toInt ≠ 0) : u.toInt.natAbs.log2 ≤ 15 := by
  have low := u.le_toInt
  have high := u.toInt_lt
  exact Nat.le_of_lt_succ ((Nat.log2_lt (Int.natAbs_ne_zero.2 h)).2 (by omega))

theorem normFloat_of_eq_zero {u : Half} (h : u.toInt = 0) : normFloat u = 0#32 := if_pos h

theorem normFloat_of_ne_zero {u : Half} (h : u.toInt ≠ 0) :
    normFloat u = packFloat (decide (u.toInt < 0)) u.toInt.natAbs := if_neg h

/-- The sign that is packed beside the magnitude makes it the sample again (42_fnorm.md rule R142). -/
theorem floatValue_normFloat (u : Half) : floatValue (normFloat u) = (u.toInt : ℚ) / 32768 := by
  by_cases h : u.toInt = 0
  · rw [normFloat_of_eq_zero h, h]
    simp [floatValue]
  · rw [normFloat_of_ne_zero h, floatValue_packFloat _ (log2_natAbs_toInt_le h) (Int.natAbs_ne_zero.2 h),
      Nat.cast_natAbs]
    by_cases neg : u.toInt < 0
    · simp [neg, abs_of_neg neg, neg_div]
    · simp [neg, abs_of_nonneg (not_lt.1 neg)]

/-- Settles O35: the closed form is packed field by field, and its value is read off the fields. -/
theorem normFloatIsExact : Obligations.NormFloatIsExact := by
  intro u
  refine ⟨floatValue_normFloat u, normFloat_of_eq_zero, fun h => ?_⟩
  have hk := log2_natAbs_toInt_le h
  rw [normFloat_of_ne_zero h]
  exact ⟨_, hk, Nat.log2_self_le (Int.natAbs_ne_zero.2 h), Nat.lt_log2_self, packFloat_sign _ hk,
    packFloat_exponent _ hk, packFloat_fraction _ hk⟩

/-- Settles O36: the value is the sample divided by 32768, so range and order are those of the samples. -/
theorem normFloatRangeAndOrder : Obligations.NormFloatRangeAndOrder := by
  intro u v
  have low : (-32768 : ℚ) ≤ u.toInt := by exact_mod_cast u.le_toInt
  have high : (u.toInt : ℚ) ≤ 32767 := by exact_mod_cast Int.le_sub_one_of_lt u.toInt_lt
  rw [floatValue_normFloat, floatValue_normFloat]
  refine ⟨by linarith, by linarith, fun h => ?_⟩
  gcongr

/-- Settles O37, row by row of the table. -/
theorem floatPatternsOfTheTable : Obligations.FloatPatternsOfTheTable := by
  unfold Obligations.FloatPatternsOfTheTable
  decide

/-! Acceptance -/

/-- Settles O13: CH = 0 fails FNORM's check, and the error completion overwrites the cleared record. -/
theorem fnormZeroChannelsCompletesWithError : Obligations.FnormZeroChannelsCompletesWithError := by
  intro s hp
  have fails : checkOf (.fnorm 0#16) = some (.zeroChannels, 0#32) := rfl
  rw [exec_idle_of_check hp fails]
  exact ⟨rfl, rfl⟩

/-! Completion -/

/-- Sample c of frame f goes to element f of the buffer of channel c (42_fnorm.md rule R146). -/
theorem storeFloat_mem_fnormStores {ch : BitVec 16} {l : Latched} {f c : Nat} (hf : f < fnormFrames ch l)
    (hc : c < ch.toNat) (m : Memory) :
    ∀ st ∈ storeFloat (addrPlus (tableEntry l m c) (4 * f)) (normFloat (readHalf m (fnormSource ch l f c)))
        [fnormSource ch l f c, addrPlus (fnormSource ch l f c) 1],
      st ∈ fnormStores ch l m :=
  fun _ hst => List.mem_flatMap.2 ⟨f, List.mem_range.2 hf, List.mem_flatMap.2 ⟨c, List.mem_range.2 hc, hst⟩⟩

/-- A successful completion leaves in memory every float pattern that its plan stores (20_memory.md rule R56). -/
theorem EngineReady.readWord_completeOk {s : State} {i : Instr} {l : Latched} {m : Memory} {pf : Platform}
    (h : EngineReady s (planOf i l m pf)) {d : Addr} {v : Word} {src : List Addr}
    (hv : ∀ st ∈ storeFloat d v src, st ∈ (planOf i l m pf).stores) :
    readWord (s.completeOk (planOf i l m pf)).mem d = v := by
  rw [State.completeOk_mem]
  exact readWord_of_storeFloat (stores_nodup h.inContract) hv

/-- The write ranges are the float buffers of the pointer-table entries that were read; without a frame there is none
(42_fnorm.md rules R141, R143). -/
theorem fnormPlan_writes_subset (ch : BitVec 16) (l : Latched) (m : Memory) (pf : Platform) :
    (fnormPlan ch l m pf).writes ⊆ (List.range ch.toNat).map (fnormDest ch l m) := by
  by_cases hf : fnormFrames ch l = 0
  · simp [fnormPlan_eq_of_no_frame hf]
  · rw [fnormPlan_writes hf]
    exact List.map_subset _ (List.filter_subset_self _)

theorem fnormPlan_count (ch : BitVec 16) (l : Latched) (m : Memory) (pf : Platform) :
    (fnormPlan ch l m pf).count = fnormFrames ch l := by
  by_cases hf : fnormFrames ch l = 0
  · rw [fnormPlan_eq_of_no_frame hf, hf]
  · simp [fnormPlan, hf]

theorem UnchangedOutside.mono {s t : State} {rs qs : List Range} (h : UnchangedOutside s t rs) (sub : rs ⊆ qs) :
    UnchangedOutside s t qs := fun a ha =>
  h a (List.any_eq_false.2 fun r hr => List.any_eq_false.1 ha r (sub hr))

/-- Settles O21: the plan of FNORM stores every float, its write ranges are float buffers, and the value of a pattern is
exact. -/
theorem fnormCompletesWithPlanarFloats : Obligations.FnormCompletesWithPlanarFloats := by
  intro s ch _ (ready : EngineReady s (planOf (.fnorm ch) s.latched s.mem s.platform)) l n ptr
  have finished := ready.finish_eq
  refine ⟨_, (exec_running _ ready.running).trans finished, ?_, fun f c hf hc => ?_,
    (finish_unchangedOutside finished).mono (fnormPlan_writes_subset ch l s.mem s.platform)⟩
  · have count : (planOf (.fnorm ch) l s.mem s.platform).count = n := fnormPlan_count ch l s.mem s.platform
    rw [← count]
    exact completeOk_completedFrom s _
  · have someFrame : fnormFrames ch l ≠ 0 := (Nat.zero_lt_of_lt hf).ne'
    have plan : planOf (.fnorm ch) l s.mem s.platform = fnormReadPlan ch l s.mem :=
      fnormPlan_eq_of_answered someFrame ready.answered
    have stored := ready.readWord_completeOk fun st hst => plan ▸ storeFloat_mem_fnormStores hf hc s.mem st hst
    exact ⟨stored, (congrArg floatValue stored).trans (floatValue_normFloat _)⟩

end Sys2Proof.Machine
end

section
/-! PROOF. The steps that run a command (60_exceptions.md rules R161 to R165): the CMD write that accepts one or is an
overrun, what acceptance of a word answers, and the step of the engine. -/

namespace Sys2Proof.Machine

open Sys2Proof Sys2Proof.Laws

variable {s : State} {v : Word} {i : Instr}

/-! The CMD write -/

theorem step_of_cmdWrite {rest : List Input} (hi : s.inputs = .regWrite cmdOffset 4 v :: rest)
    (hr : s.resetLine = false) : step s = (s.withInputs rest).writeCmd v := by
  rw [step_of_inputs hi nofun]
  simp [State.serve, State.hostWrite, hr, accessLegal, cmdOffset]

theorem State.writeCmd_of_running (hp : s.phase = .running) : s.writeCmd v = .next s.overrun := if_pos hp

theorem State.writeCmd_of_decode_ok (hp : s.phase = .idle) (hd : decode v = .ok i) :
    s.writeCmd v = exec i (s.withCmd v) := by
  simp [State.writeCmd, hp, hd]

theorem State.writeCmd_of_decode_error {op : BitVec 4} (hp : s.phase = .idle)
    (hd : decode v = .error (.illegalOp op)) :
    s.writeCmd v = .next ((s.withCmd v).acceptIllegal op) := by
  simp [State.writeCmd, hp, hd]

/-- Settles O7: the CMD write is the command's meaning where its word decodes. -/
theorem stepAcceptsTheDecodedCommand : Obligations.StepAcceptsTheDecodedCommand := by
  intro s v i rest hi hr hp hd
  rw [step_of_cmdWrite hi hr]
  exact State.writeCmd_of_decode_ok hp hd

theorem tableWord_32 (w : Nat) : tableWord 32 w = BitVec.ofNat 32 w := by
  apply BitVec.eq_of_toNat_eq
  simp [tableWord]

/-- Settles O9: `withFetchWord` makes the CMD write the next input of an engine that is IDLE and not in reset. -/
theorem placedCommandIsRunNext : Obligations.PlacedCommandIsRunNext := by
  intro s w i hd
  rw [State.withFetchWord, tableWord_32]
  exact stepAcceptsTheDecodedCommand (s.queueCommand (BitVec.ofNat 32 w)) _ i s.inputs rfl rfl rfl hd

/-- Settles O17: the CMD write of a running engine is the overrun. -/
theorem cmdWriteWhileBusyOnlySetsOvr : Obligations.CmdWriteWhileBusyOnlySetsOvr := by
  intro s v rest hi hr hp
  rw [step_of_cmdWrite hi hr]
  exact State.writeCmd_of_running hp

/-! Acceptance of a command -/

theorem exec_split8_idle (hp : s.phase = .idle) (ch : BitVec 16) :
    exec (.split8 ch) s = .next (s.accept (splitCheck ch) .split8 (beField s.cmd) (bpsField s.cmd) ch) := by
  simp [exec, execSplit8, hp]

theorem exec_split16_idle (hp : s.phase = .idle) (ch : BitVec 16) (be : Bool) :
    exec (.split16 ch be) s = .next (s.accept (splitCheck ch) .split16 be (bpsField s.cmd) ch) := by
  simp [exec, execSplit16, hp]

theorem exec_fnorm_idle (hp : s.phase = .idle) (ch : BitVec 16) :
    exec (.fnorm ch) s = .next (s.accept (fnormCheck ch) .fnorm (beField s.cmd) (bpsField s.cmd) ch) := by
  simp [exec, execFnorm, hp]

theorem convCheck_passes {bps : BitVec 8} (h : bps = 8#8 ∨ bps = 16#8) : convCheck bps = none := if_pos h

theorem fnormCheck_passes {ch : BitVec 16} (h : ch ≠ 0#16) : fnormCheck ch = none := if_neg h

/-- Settles O12: each command's check passes, so acceptance latches its operands into the cleared record. -/
theorem legalCommandsAreLatched : Obligations.LegalCommandsAreLatched := by
  intro s hp run
  refine ⟨fun bps be legal => ?_, fun ch legal => ?_, fun ch be legal => ?_, fun ch legal => ?_⟩
  · rw [exec_conv_idle hp, convCheck_passes legal]
    rfl
  · rw [exec_split8_idle hp, splitCheck_passes legal]
    rfl
  · rw [exec_split16_idle hp, splitCheck_passes legal]
    rfl
  · rw [exec_fnorm_idle hp, fnormCheck_passes legal]
    rfl

/-! Acceptance of a word -/

/-- The opcode that L holds of a command (60_exceptions.md rule R161). -/
def latchOp : Instr → Op
  | .conv _ _ => .conv
  | .split8 _ => .split8
  | .split16 _ _ => .split16
  | .fnorm _ => .fnorm

/-- Acceptance latches every field of the word as it stands, whether the command reads it or not. -/
theorem State.writeCmd_eq_accept (hp : s.phase = .idle) (hd : decode v = .ok i) :
    s.writeCmd v = .next ((s.withCmd v).accept (checkOf i) (latchOp i) (beField v) (bpsField v) (chField v)) := by
  have idle : (s.withCmd v).phase = .idle := hp
  obtain ⟨-, operands⟩ := decode_eq_ok_iff.1 hd
  rw [State.writeCmd_of_decode_ok hp hd]
  cases i with
  | conv bps be =>
    obtain ⟨rfl, rfl⟩ := operands
    exact exec_conv_idle idle _ _
  | split8 ch =>
    obtain rfl := operands
    exact exec_split8_idle idle _
  | split16 ch be =>
    obtain ⟨rfl, rfl⟩ := operands
    exact exec_split16_idle idle _ _
  | fnorm ch =>
    obtain rfl := operands
    exact exec_fnorm_idle idle _

/-- The check decides between the two outcomes of acceptance (60_exceptions.md rules R161, R163). -/
theorem State.accept_ite (s : State) (P : Prop) [Decidable P] (bad good : Option (ErrCode × Word)) (op : Op) (be : Bool)
    (bps : BitVec 8) (ch : BitVec 16) :
    s.accept (if P then bad else good) op be bps ch =
      if P then s.accept bad op be bps ch else s.accept good op be bps ch :=
  apply_ite (fun check => s.accept check op be bps ch) P bad good

/-- Settles O11: the opcode selects the decoded command, and its check decides between the error record and the latched
command. -/
theorem cmdWriteIsAcceptance : Obligations.CmdWriteIsAcceptance := by
  intro s v rest hi hr hp s0 fail run op bps ch
  have idle : (s.withInputs rest).phase = .idle := hp
  have accepted (i : Instr) (hop : op = i.opcode) (operands : OperandsIn v i) :=
    State.writeCmd_eq_accept idle (decode_eq_ok_iff.2 ⟨hop, operands⟩)
  rw [step_of_cmdWrite hi hr]
  by_cases reserved : op = 0#4 ∨ 5 ≤ op.toNat
  · have hd : decode v = .error (.illegalOp op) := decode_eq_error_iff.2 ⟨rfl, (reserved_iff op).2 reserved⟩
    rw [if_pos reserved]
    exact State.writeCmd_of_decode_error idle hd
  rw [if_neg reserved]
  by_cases conv : op = 1#4
  · rw [if_pos conv, accepted (.conv bps (beField v)) conv ⟨rfl, rfl⟩]
    exact congrArg _ (State.accept_ite ..)
  rw [if_neg conv]
  by_cases split8 : op = 2#4
  · rw [if_pos split8, accepted (.split8 ch) split8 rfl]
    exact congrArg _ (State.accept_ite ..)
  rw [if_neg split8]
  by_cases split16 : op = 3#4
  · rw [if_pos split16, accepted (.split16 ch (beField v)) split16 ⟨rfl, rfl⟩]
    exact congrArg _ (State.accept_ite ..)
  rw [if_neg split16]
  have fnorm : op = 4#4 := by
    by_contra fnorm
    exact reserved ((reserved_iff op).1 ⟨conv, split8, split16, fnorm⟩)
  rw [accepted (.fnorm ch) fnorm rfl]
  exact congrArg _ (State.accept_ite ..)

/-! Acceptance and memory -/

theorem State.accept_mem (s : State) (bad : Option (ErrCode × Word)) (op : Op) (be : Bool) (bps : BitVec 8)
    (ch : BitVec 16) : (s.accept bad op be bps ch).mem = s.mem := by
  cases bad <;> rfl

theorem State.accept_withMem (s : State) (m : Memory) (bad : Option (ErrCode × Word)) (op : Op) (be : Bool)
    (bps : BitVec 8) (ch : BitVec 16) :
    (s.withMem m).accept bad op be bps ch = (s.accept bad op be bps ch).withMem m := by
  cases bad <;> rfl

/-- Settles O16: the verdict on a word comes from its fields, so other contents of memory pass through acceptance. -/
theorem acceptanceAccessesNoMemory : Obligations.AcceptanceAccessesNoMemory := by
  intro s v rest hi hr hp
  have cmdWrite (m : Memory) : step (s.withMem m) = ((s.withMem m).withInputs rest).writeCmd v :=
    step_of_cmdWrite (s := s.withMem m) hi hr
  have idle : (s.withInputs rest).phase = .idle := hp
  have idleWith (m : Memory) : ((s.withMem m).withInputs rest).phase = .idle := hp
  cases hd : decode v with
  | error r =>
    obtain ⟨op⟩ := r
    refine ⟨_, (step_of_cmdWrite hi hr).trans (State.writeCmd_of_decode_error idle hd), rfl, fun m => ?_⟩
    exact (cmdWrite m).trans (State.writeCmd_of_decode_error (idleWith m) hd)
  | ok i =>
    refine ⟨_, (step_of_cmdWrite hi hr).trans (State.writeCmd_eq_accept idle hd), State.accept_mem _ _ _ _ _ _,
      fun m => ?_⟩
    rw [cmdWrite, State.writeCmd_eq_accept (idleWith m) hd, ← State.accept_withMem]
    rfl

/-! The step of the engine -/

theorem State.engineStep_of_running (hp : s.phase = .running) (hr : s.resetLine = false) :
    s.engineStep = exec (latchedInstr s.latched) s := if_pos ⟨hp, hr⟩

/-- Settles O8: in each of the three situations the step is the engine's. -/
theorem stepCompletesTheLatchedCommand : Obligations.StepCompletesTheLatchedCommand := by
  intro s rest hp hr
  refine ⟨fun noInput => ?_, fun waiting hd => ?_, fun moves => ?_⟩
  · have engine : step s = s.engineStep := by simp [step, State.advance, noInput]
    rw [engine, State.engineStep_of_running hp hr]
  · have engine : step s = s.engineStep := by simp [step, State.advance, waiting, hd]
    rw [engine, State.engineStep_of_running hp hr]
  · rw [step_of_inputs moves nofun]
    exact State.engineStep_of_running (s := s.withInputs rest) hp hr

end Sys2Proof.Machine
end

section
/-! PROOF. The interrupt line (10_state.md rule R41, 60_exceptions.md rule R172). -/

namespace Sys2Proof.Machine

open Sys2Proof

theorem State.irq_of_done_false {s : State} (h : s.done = false) : s.irq = false := by
  simp [State.irq, h]

/-- A legal command that is accepted leaves DONE = 0: the record is cleared and none is written. -/
theorem exec_idle_next_irq_false {s : State} {i : Instr} (hp : s.phase = .idle) (legal : i.wellFormed = true) :
    ∃ t, exec i s = .next t ∧ t.irq = false := by
  obtain ⟨_, _, _, _, he⟩ := exec_idle_of_checkOf_none hp ((checkOf_eq_none i).2 legal)
  exact ⟨_, he, State.irq_of_done_false rfl⟩

/-- Settles O43: the two register writes each decide one factor of the line, and acceptance clears DONE. -/
theorem interruptFollowsDoneAndEnable : Obligations.InterruptFollowsDoneAndEnable := by
  intro s v
  have ack : s.writeReg statusOffset v = s.ackStatus v := rfl
  have mask : s.writeReg 0x24#6 v = { s with doneIe := v.getLsbD 0 } := rfl
  rw [ack, mask]
  refine ⟨rfl, fun h => State.irq_of_done_false ?_, fun h => ⟨?_, rfl⟩, fun hd h => ?_,
    fun hp i => exec_idle_next_irq_false hp⟩
  · simp [h]
  · simp only [State.irq, h, Bool.and_false]
  · simp only [State.irq, h, hd, Bool.and_true]

end Sys2Proof.Machine
end

section
/-! PROOF. Completion with BUS_ERROR (60_exceptions.md rule R167): the record, what the destination bytes hold, and
FNORM with a pointer table that does not respond. -/

namespace Sys2Proof.Machine

open Sys2Proof

variable {s : State}

/-- Inside the contract one silent byte of the footprint decides for the BusError completion. -/
theorem finish_of_silent {p : Plan} {b : Addr} (hc : InContract s p) (hb : planHas p b = true)
    (silent : responds s.platform b = false) :
    ∃ a as, silentBytes s.platform p = a :: as ∧ s.finish p = .next (s.completeBusError p a as) := by
  rcases finish_cases s p with ⟨r, breach, -⟩ | ⟨-, answered, -⟩ | ⟨a, as, -, bytes, finished⟩
  · simp [contractBreach_eq_none.2 hc] at breach
  · simp [answered b hb] at silent
  · exact ⟨a, as, bytes, finished⟩

/-- ERRVAL is a byte of the footprint that does not respond, whichever is drawn. -/
theorem completeBusError_errval_silent {p : Plan} {a : Addr} {as : List Addr}
    (bytes : silentBytes s.platform p = a :: as) :
    planHas p (s.completeBusError p a as).errval = true ∧
      responds s.platform (s.completeBusError p a as).errval = false :=
  mem_silentBytes.1 (bytes ▸ pickOne_mem s.draws a as)

/-- Settles O25: the completion draws ERRVAL from the silent bytes and scatters the stores in the write ranges. -/
theorem busErrorCompletes : Obligations.BusErrorCompletes := by
  intro s i b hp p hc hb silent
  obtain ⟨a, as, bytes, finished⟩ := finish_of_silent hc hb silent
  obtain ⟨inFootprint, unanswered⟩ := completeBusError_errval_silent bytes
  have cutShort : CutShort s (s.completeBusError p a as) p :=
    ⟨finish_unchangedOutside finished, scatterStores_old_or_final _ _ _ _⟩
  exact ⟨_, _, (exec_running i hp).trans finished, inFootprint, unanswered, cutShort, rfl⟩

/-- A table whose entries were all read responds everywhere. -/
theorem table_responds_of_entryRead {ch : BitVec 16} {l : Latched} {pf : Platform}
    (read : ∀ c < ch.toNat, entryRead pf l c = true) {b : Addr} (hb : rangeHas ⟨l.dst0, 4 * ch.toNat⟩ b = true) :
    responds pf b = true := by
  obtain ⟨k, hk, -, rfl⟩ := rangeHas_elim hb
  have entry := read (k / 4) (Nat.div_lt_of_lt_mul hk)
  simp only [entryRead_eq, List.all_eq_true, List.mem_range] at entry
  simpa [Nat.div_add_mod] using entry (k % 4) (Nat.mod_lt k (by decide))

/-- With an entry that was not read FNORM stores no float (60_exceptions.md rule R167; log entry 8). -/
theorem fnormPlan_stores_of_silent_table {ch : BitVec 16} {l : Latched} {pf : Platform} (hf : fnormFrames ch l ≠ 0)
    (m : Memory) {b : Addr} (hb : rangeHas ⟨l.dst0, 4 * ch.toNat⟩ b = true) (silent : responds pf b = false) :
    (fnormPlan ch l m pf).stores = [] := by
  have unread : ¬ (List.range ch.toNat).all (entryRead pf l) = true := by
    intro read
    simp only [List.all_eq_true, List.mem_range] at read
    simp [table_responds_of_entryRead read hb] at silent
  simp only [fnormPlan, if_neg hf, if_neg unread]

theorem planHas_of_mem_reads {p : Plan} {r : Range} {a : Addr} (hr : r ∈ p.reads) (ha : rangeHas r a = true) :
    planHas p a = true :=
  List.any_eq_true.2 ⟨r, List.mem_append_left _ hr, ha⟩

/-- Settles O26: the table is read, so its silent byte ends the command in BUS_ERROR, and there is no store to scatter. -/
theorem fnormTableFaultWritesNothing : Obligations.FnormTableFaultWritesNothing := by
  intro s ch b hp frames hc hb silent
  have hf : fnormFrames ch s.latched ≠ 0 := frames.ne'
  have inTable : planHas (fnormPlan ch s.latched s.mem s.platform) b = true :=
    planHas_of_mem_reads (by simp [fnormPlan_reads hf]) hb
  obtain ⟨a, as, -, finished⟩ := finish_of_silent hc inTable silent
  refine ⟨_, (exec_running (.fnorm ch) hp).trans finished, rfl, rfl, ?_⟩
  rw [State.completeBusError_mem, fnormPlan_stores_of_silent_table hf s.mem hb silent, scatterStores]

end Sys2Proof.Machine
end

section
/-! PROOF. The reset input, the idle engine and the footprint right after a completion (70_reset_and_hazards.md rules
R190 to R194 and R199): what a step does while reset is asserted, asserted anew or released, said once. -/

namespace Sys2Proof.Machine

open Sys2Proof

variable {s t : State}

/-! The engine waits -/

theorem step_of_inputs_nil (h : s.inputs = []) : step s = s.engineStep := by
  simp [step, State.advance, h]

/-- While BUSY = 0, or while reset is asserted, the engine has no step (70_reset_and_hazards.md rules R190, R194). -/
theorem State.engineStep_of_waiting (h : s.phase = .idle ∨ s.resetLine = true) : s.engineStep = .next s :=
  if_neg fun ⟨running, released⟩ => by simp [running, released] at h

/-- Settles O10: with no input the step is the engine's, and an idle engine has none. -/
theorem idleMachineWaits : Obligations.IdleMachineWaits := fun _ hp hi =>
  (step_of_inputs_nil hi).trans (State.engineStep_of_waiting (.inl hp))

/-! The reset values -/

@[simp] theorem State.resetRegs_readReg (off : BitVec 6) : s.resetRegs.readReg off = State.reset.readReg off := rfl

@[simp] theorem State.resetRegs_irq : s.resetRegs.irq = false := rfl

/-- Settles O44: the ten registers of the table are read at State.reset. -/
theorem resetValuesOfTheTable : Obligations.ResetValuesOfTheTable := by
  unfold Obligations.ResetValuesOfTheTable
  decide

/-- Settles O52: the reset state is idle with reset released, its memory is canonical and its error record empty. -/
theorem resetHasTheInvariant : Obligations.ResetHasTheInvariant :=
  .of_idle rfl rfl reset_mem_wf (by decide) (fun _ => rfl) fun _ => rfl

/-! Reset is asserted -/

theorem State.assertReset_of_idle (hp : s.phase = .idle) : s.assertReset = .next s.resetRegs :=
  if_neg (by simp [hp])

theorem State.assertReset_of_running (hp : s.phase = .running) (hc : InContract s s.runningPlan) :
    s.assertReset = .next (s.abandon s.runningPlan).resetRegs := by
  rw [State.assertReset, if_pos hp, contractBreach_eq_none.2 hc]

/-- Settles O45: the step sets the registers and leaves the rest. -/
theorem resetAssertionSetsRegisters : Obligations.ResetAssertionSetsRegisters := by
  intro s rest hi hp
  have asserted : step s = .next (s.withInputs rest).resetRegs :=
    (step_of_inputs hi nofun).trans (State.assertReset_of_idle (s := s.withInputs rest) hp)
  exact ⟨_, asserted, rfl, rfl, rfl, State.resetRegs_irq, State.resetRegs_readReg, rfl, rfl⟩

/-- An abandoned command is cut short: its stores, which lie in its write ranges, are each drawn
(70_reset_and_hazards.md rule R192). -/
theorem abandon_cutShort {i : Instr} {l : Latched} {m : Memory} {pf : Platform} :
    CutShort s (s.abandon (planOf i l m pf)) (planOf i l m pf) :=
  ⟨fun _ => scatterStores_frame, scatterStores_old_or_final _ _ _ _⟩

/-- Where the sources of a legal command respond, no byte of it that is cut short is any but old or final. -/
theorem CutShort.old_or_final {i : Instr} {l : Latched} {m : Memory} {pf : Platform}
    (h : CutShort s t (planOf i l m pf)) (legal : i.wellFormed = true)
    (answered : ∀ b, planReads (planOf i l m pf) b = true → responds s.platform b = true) (a : Addr) :
    readByte t.mem a = readByte s.mem a ∨
      ∃ st ∈ (planOf i l m pf).stores, st.addr = a ∧ readByte t.mem a = st.val :=
  h.2 a fun _ hst _ b hb => answered b (takenFrom_in_reads legal hst hb)

/-- Settles O46: the step abandons the running command, which cuts it short, and sets the registers. -/
theorem resetAbandonsRunningCommand : Obligations.ResetAbandonsRunningCommand := by
  intro s rest hi hp hc
  have asserted : step s = .next ((s.withInputs rest).abandon s.runningPlan).resetRegs :=
    (step_of_inputs hi nofun).trans
      (State.assertReset_of_running (s := s.withInputs rest) hp (hc.withInputs rest))
  have cutShort : CutShort s ((s.withInputs rest).abandon s.runningPlan).resetRegs s.runningPlan :=
    abandon_cutShort (s := s.withInputs rest)
  exact ⟨_, asserted, rfl, rfl, State.resetRegs_irq, rfl, State.resetRegs_readReg, cutShort, cutShort.old_or_final⟩

/-! While reset is asserted, and its release -/

theorem State.hostWrite_of_reset (hr : s.resetLine = true) (off : BitVec 6) (bytes : Nat) (v : Word) :
    s.hostWrite off bytes v = .next s := if_pos hr

theorem State.hostRead_of_reset (hr : s.resetLine = true) (off : BitVec 6) (bytes : Nat) :
    s.hostRead off bytes = .next (s.answer none) := if_pos hr

theorem step_of_releaseReset {rest : List Input} (hi : s.inputs = .releaseReset :: rest) :
    step s = .next (s.withInputs rest).releaseReset := step_of_inputs hi nofun

/-- Settles O47: each access and the engine ask for the reset input first, and release changes its level alone. -/
theorem assertedResetIgnoresAccesses : Obligations.AssertedResetIgnoresAccesses := by
  intro s rest hr
  refine ⟨fun off bytes v hi => ?_, fun off bytes hi => ?_, fun hi => ?_, fun hi => ?_, step_of_releaseReset⟩
  · exact (step_of_inputs hi nofun).trans (State.hostWrite_of_reset (s := s.withInputs rest) hr off bytes v)
  · exact (step_of_inputs hi nofun).trans (State.hostRead_of_reset (s := s.withInputs rest) hr off bytes)
  · exact (step_of_inputs hi nofun).trans (State.engineStep_of_waiting (s := s.withInputs rest) (.inr hr))
  · exact (step_of_inputs_nil hi).trans (State.engineStep_of_waiting (.inr hr))

/-- Settles O60: the invariant has the registers at their reset values already, and release changes none. -/
theorem releasedMachineIsInTheResetState : Obligations.ReleasedMachineIsInTheResetState := by
  intro s rest inv hr hi
  obtain ⟨idle, notDone, registers⟩ := inv.resetIdle hr
  exact ⟨_, step_of_releaseReset hi, rfl, idle, State.irq_of_done_false notDone, rfl, registers⟩

/-! Right after a completion -/

/-- Both completions put the command's footprint among those whose DONE is not observed. -/
theorem finish_unobserved {p : Plan} (h : s.finish p = .next t) :
    ∃ f, f.touched = planFootprint p ∧ t.unobserved = f :: s.unobserved := by
  rcases finish_next h with rfl | ⟨a, as, -, rfl⟩ <;> exact ⟨_, rfl, rfl⟩

/-- Settles O34: the footprint of the completed command is one of the unobserved ones. -/
theorem completedFootprintIsGuarded : Obligations.CompletedFootprintIsGuarded := by
  intro s t i a hp h ha
  obtain ⟨f, touched, unobserved⟩ := finish_unobserved ((exec_running i hp).symm.trans h)
  exact State.guarded_iff.2 (.inr ⟨f, by simp [unobserved], touched ▸ ha⟩)

end Sys2Proof.Machine
end
